-- ==== Sys2Proof/Word.lean ====
section
/-! DEFINITION. The byte, the block's one value type (00_scope.md R11, R12), and the two halves of a 16-bit length. -/

namespace Sys2Proof

/-- A byte, `u8` (R11). -/
abbrev Byte := BitVec 8

/-- The byte that holds the low eight bits of `n`; for `n` below 256, `n` itself. -/
abbrev byte (n : Nat) : Byte := BitVec.ofNat 8 n

end Sys2Proof
end

