-- ==== Sys2Proof/Syntax.lean ====
section
/-! DEFINITION. The seven command-port operations, one constructor for each row of spec/opcode_table.json
(30_encoding.md R85). Operand names are the spec's. -/

namespace Sys2Proof

inductive Instr where
  /-- REG_READ `A, C` (R93) -/
  | regRead (a c : Byte)
  /-- REG_WRITE `A, D` (R95) -/
  | regWrite (a : Byte) (d : List Byte)
  /-- ENCODE_STATUS `E, P` (R108) -/
  | encodeStatus (e : Byte) (p : List Byte)
  /-- ENCODE_READ_CMD `T, A, C` (R110) -/
  | encodeReadCmd (t a c : Byte)
  /-- VALIDATE `R` (R112) -/
  | validate (r : List Byte)
  /-- READ_REMOTE `T, A, C` (R118) -/
  | readRemote (t a c : Byte)
  /-- SYNC_READ `A, C, IDS` (R146) -/
  | syncRead (a c : Byte) (ids : List Byte)
  deriving DecidableEq, Repr

/-- The operation selector `OP` (R85, D4). -/
def Instr.selector : Instr → Byte
  | .regRead .. => 0x01
  | .regWrite .. => 0x02
  | .encodeStatus .. => 0x03
  | .encodeReadCmd .. => 0x04
  | .validate .. => 0x05
  | .readRemote .. => 0x06
  | .syncRead .. => 0x07

/-- The total length of the command in bytes (R85). -/
def Instr.size : Instr → Nat
  | .regRead .. => 3
  | .regWrite _ d => 3 + d.length
  | .encodeStatus _ p => 3 + p.length
  | .encodeReadCmd .. => 4
  | .validate r => 3 + r.length
  | .readRemote .. => 4
  | .syncRead _ _ ids => 4 + ids.length

end Sys2Proof
end

