-- ==== Sys2Proof/WellFormed.lean ====
section
/-! DEFINITION. Which instructions the command port can carry at all: each list fits the length field of its layout
(30_encoding.md R85). The admitted domain of an operation, which depends on the configuration, is in
Machine/Operands.lean. -/

namespace Sys2Proof

def Instr.wellFormed : Instr → Bool
  | .regRead .. => true
  | .regWrite _ d => decide (d.length ≤ 255)
  | .encodeStatus _ p => decide (p.length ≤ 255)
  | .encodeReadCmd .. => true
  | .validate r => decide (r.length ≤ 65535)
  | .readRemote .. => true
  | .syncRead _ _ ids => decide (ids.length ≤ 255)

end Sys2Proof
end

