-- ==== Sys2Proof/Decode.lean ====
section
/-! DEFINITION. The command decoder and the encoder (30_encoding.md R84 to R88), and the table's way of writing a command
as one number. -/

namespace Sys2Proof

/-- Why a byte sequence is no command (R165). -/
inductive Reject where
  /-- its selector is reserved (R87) -/
  | unknownOp
  /-- it is shorter than its layout (R88) -/
  | outOfDomain
  deriving DecidableEq, Repr

/-- What the decoder makes of a byte sequence: the command and the bytes after it, or a rejection by name. -/
inductive Decoded where
  | ok (i : Instr) (rest : List Byte)
  | rejected (why : Reject)
  deriving DecidableEq, Repr

/-- The first `n` bytes and the rest, if there are `n`. -/
def takeExact : Nat → List Byte → Option (List Byte × List Byte)
  | 0, bs => some ([], bs)
  | _ + 1, [] => none
  | n + 1, b :: bs =>
    match takeExact n bs with
    | none => none
    | some (xs, rest) => some (b :: xs, rest)

/-- A list operand of `n` bytes at the head of `bs`, given to the command `mk` builds from it. -/
def decodeList (n : Nat) (bs : List Byte) (mk : List Byte → Instr) : Decoded :=
  match takeExact n bs with
  | none => .rejected .outOfDomain
  | some (xs, rest) => .ok (mk xs) rest

/-- The layout of selector `op` applied to the bytes after it (R85). -/
def decodeOperands (op : Nat) (bs : List Byte) : Decoded :=
  match op, bs with
  | 1, a :: c :: rest => .ok (.regRead a c) rest
  | 2, a :: n :: rest => decodeList n.toNat rest (.regWrite a)
  | 3, e :: n :: rest => decodeList n.toNat rest (.encodeStatus e)
  | 4, t :: a :: c :: rest => .ok (.encodeReadCmd t a c) rest
  | 5, lo :: hi :: rest => decodeList (lo.toNat + 256 * hi.toNat) rest .validate
  | 6, t :: a :: c :: rest => .ok (.readRemote t a c) rest
  | 7, a :: c :: n :: rest => decodeList n.toNat rest (.syncRead a c)
  | _, _ => .rejected .outOfDomain

/-- The decoder (R87, R88): the selector gives the layout, the length field, where there is one, the total length. -/
def decode : List Byte → Decoded
  | [] => .rejected .outOfDomain
  | op :: bs =>
    if op.toNat = 0 ∨ 8 ≤ op.toNat then .rejected .unknownOp else decodeOperands op.toNat bs

/-- The byte sequence of a well-formed command (R85). -/
def encode : Instr → List Byte
  | .regRead a c => [0x01, a, c]
  | .regWrite a d => [0x02, a, byte d.length] ++ d
  | .encodeStatus e p => [0x03, e, byte p.length] ++ p
  | .encodeReadCmd t a c => [0x04, t, a, c]
  | .validate r => [0x05, byte (r.length % 256), byte (r.length / 256)] ++ r
  | .readRemote t a c => [0x06, t, a, c]
  | .syncRead a c ids => [0x07, a, c, byte ids.length] ++ ids

/-- The low `n` bytes of `w`, the least significant first. -/
def wordBytes : Nat → Nat → List Byte
  | 0, _ => []
  | n + 1, w => byte (w % 256) :: wordBytes n (w / 256)

/-- The total length the layout gives a sequence that begins with `bs`, missing bytes read as zero (R85). -/
def layoutLength (bs : List Byte) : Nat :=
  match (bs.getD 0 0).toNat with
  | 1 => 3
  | 2 => 3 + (bs.getD 2 0).toNat
  | 3 => 3 + (bs.getD 2 0).toNat
  | 4 => 4
  | 5 => 3 + ((bs.getD 1 0).toNat + 256 * (bs.getD 2 0).toNat)
  | 6 => 4
  | 7 => 4 + (bs.getD 3 0).toNat
  | _ => 1

/-- The command whose bits are `w`, numbered as spec/opcode_table.json numbers them, as the port carries it: byte 0 from
bits 7..0, byte 1 from bits 15..8 and on, then zeros up to the length its layout gives. -/
def tableBytes (nbits w : Nat) : List Byte :=
  let bs := wordBytes (nbits / 8) w
  bs ++ List.replicate (layoutLength bs - bs.length) 0

/-- What the decoder reads from the command whose bits are `w`. -/
def decodeTableWord (nbits w : Nat) : Option Instr :=
  match decode (tableBytes nbits w) with
  | .ok i _ => some i
  | .rejected _ => none

end Sys2Proof
end

