-- ==== Sys2Proof/Config.lean ====
section
/-! DEFINITION. What an implementation fixes (the parameters of 00_scope.md R9) and the free values.

The parameters are plain data, carried by the state, so that every statement about all states holds for every
parameter choice (R9: "assume nothing of it beyond the stated constraint"). -/

namespace Sys2Proof

/-- First read/write bank address (R9). -/
def startRW : Nat := 4

/-- The "none" error status (R9, R75). -/
def errNone : Byte := 0x00

/-- Fill byte for a failed device in a sync-read, "all bits set" (R9, R19). -/
def sentinel : Byte := 0xFF

/-- The two header bytes of a wire frame (R70). -/
def hdr : Byte := 0xFF

/-- Most parameters one frame carries (R9, R71). -/
def maxParams : Nat := 253

/-- The longest wire frame (R73). -/
def maxFrame : Nat := 259

/-- How the implementation computes `timeout(BANK)` (R9, R125, D24). The source does not say; `uninterpreted` is any
function of the bank within the constraint of R9, and the other two are the readings a configuration may name. -/
inductive TimeoutRule where
  /-- a fixed number of ticks -/
  | constant (ticks : Nat)
  /-- the value of one bank byte, "timeout-style fields" (R194) -/
  | bankByte (addr : Nat)
  /-- some function of the bank, of which only the constraint of R9 is known -/
  | uninterpreted
  deriving DecidableEq, Repr, Inhabited

/-- The parameters of R9. Names follow the table there. -/
structure Config where
  /-- `N`, the register bank size in bytes -/
  bankSize : Nat
  /-- `BOUND_LEN`, the number of entries of each bounds table -/
  boundLen : Nat
  /-- `MIN[5]` -/
  min5 : Byte
  /-- `MAX[5]` -/
  max5 : Byte
  /-- `MIN[6]` -/
  min6 : Byte
  /-- `MAX[6]` -/
  max6 : Byte
  /-- `MODEL_L`, bank address 0 -/
  modelL : Byte
  /-- `MODEL_H`, bank address 1 -/
  modelH : Byte
  /-- `FW_VERSION`, bank address 2 -/
  fwVersion : Byte
  /-- `BRIDGE_ID`, bank address 3 and the `ID` of every frame the bridge answers with -/
  bridgeId : Byte
  /-- `BROADCAST_ID`; the block treats no id specially (R74), so nothing reads it -/
  broadcastId : Byte
  /-- `CMD_READ`, the command code of the read-data command -/
  cmdRead : Byte
  /-- `ERR_RANGE`, the code the dispatcher gives ENCODE_STATUS after a RangeError (R166) -/
  errRange : Byte
  /-- `CAP`, the capture buffer's capacity -/
  cap : Nat
  /-- `TICK_W`, the tick counter's width in bits -/
  tickW : Nat
  /-- `timeout` -/
  timeout : TimeoutRule
  /-- `FLUSH_THRESHOLD` -/
  flushThreshold : Nat
  /-- `MAX_SYNC_IDS` -/
  maxSyncIds : Nat
  /-- `BANK_INIT_RW`, the reset contents of addresses 4 to N-1 -/
  bankInitRW : List Byte
  /-- `TICK_INIT`, the power-on draw of the tick counter (R32) -/
  tickInit : Nat
  deriving DecidableEq, Repr, Inhabited

/-- Entry `k` of the tables `MIN` and `MAX` (R9, R28): the legal range of address `START_RW + k`. `none` past the
table's end. -/
def Config.bound (c : Config) (k : Nat) : Option (Byte × Byte) :=
  if c.boundLen ≤ k then none
  else match k with
    | 0 => some (byte 10, byte 254)
    | 1 => some (c.min5, c.max5)
    | 2 => some (c.min6, c.max6)
    | _ => some (byte 0, byte 255)

/-- The reset contents of bank address `a` (R27): what an address reads as that nothing has written. -/
def Config.resetByte (c : Config) (a : Nat) : Byte :=
  match a with
  | 0 => c.modelL
  | 1 => c.modelH
  | 2 => c.fwVersion
  | 3 => c.bridgeId
  | k + 4 => c.bankInitRW.getD k 0

/-- The constraint `1 <= timeout(BANK) < 2^TICK_W` (R9, R194), in the form each rule allows: a bank byte must keep it
in its reset contents and, where it is writable, by its bounds. An uninterpreted rule keeps it by construction. -/
def Config.timeoutOk (c : Config) : Bool :=
  match c.timeout with
  | .constant n => decide (1 ≤ n ∧ n < 2 ^ c.tickW)
  | .bankByte a =>
    decide (a < c.bankSize ∧ 1 ≤ (c.resetByte a).toNat ∧ (c.resetByte a).toNat < 2 ^ c.tickW) &&
      (decide (a < startRW) ||
        match c.bound (a - startRW) with
        | none => true
        | some (lo, hi) => decide (1 ≤ lo.toNat ∧ hi.toNat < 2 ^ c.tickW))
  | .uninterpreted => true

/-- The constraints of R9. A choice that breaks one "is not a configuration of this block" (R10). -/
def Config.valid (c : Config) : Bool :=
  decide (7 ≤ c.bankSize ∧ c.bankSize ≤ 256 ∧ c.boundLen = c.bankSize - startRW) &&
  decide (c.min5 ≤ c.max5 ∧ c.min6 ≤ c.max6) &&
  decide (c.bridgeId.toNat ≤ 253 ∧ 253 < c.broadcastId.toNat ∧ c.errRange ≠ 0) &&
  decide (6 ≤ c.cap ∧ 1 ≤ c.tickW ∧ 1 ≤ c.flushThreshold ∧ 1 ≤ c.maxSyncIds) &&
  decide (c.bankInitRW.length = c.bankSize - startRW) && c.timeoutOk

/-- The example configuration of 95_test_vectors.md section 0, "a choice for testing, not a fact of the source".
Only tests and the fallback of `Config.device` use it. -/
def Config.bench : Config where
  bankSize := 16
  boundLen := 12
  min5 := 1
  max5 := 100
  min6 := 0
  max6 := 255
  modelL := 0x12
  modelH := 0x34
  fwVersion := 0x05
  bridgeId := 0xFD
  broadcastId := 0xFE
  cmdRead := 0x02
  errRange := 0x08
  cap := 32
  tickW := 16
  timeout := .bankByte 4
  flushThreshold := 64
  maxSyncIds := 16
  bankInitRW := [20, 1, 0, 0, 0, 0, 0, 0, 0, 0, 0, 0]
  tickInit := 0

/-- The parameters of the block at hand: OPEN, so no value is known (R9). -/
opaque Config.chosen : Config

/-- The configuration of the block at hand. Some valid configuration, and any valid one: `chosen` wherever it keeps the
constraints of R9 (notes/assumptions/4.md). -/
def Config.device : Config := if Config.chosen.valid then Config.chosen else Config.bench

/-- `timeout(BANK)` of an implementation whose rule is not known: a free function of the bank's bytes (R125). -/
opaque Config.freeTimeout (bank : List Byte) : Nat

/-- A free byte: what slot `slot` holds after reset event number `draw` where R184 says "unspecified". -/
opaque Config.freeByte (draw slot : Nat) : Byte

/-- A free natural number, as `freeByte`. The tick counter's fresh draw `TICK_INIT` is one (R32, R184). -/
opaque Config.freeNat (draw slot : Nat) : Nat

/-- A free byte list, as `freeByte`. -/
opaque Config.freeBytes (draw slot : Nat) : List Byte

end Sys2Proof
end

