-- ==== Sys2Proof/Machine/State.lean ====
section
/-! DEFINITION. All the state the spec gives the block (10_state.md R26 to R41), as plain data, and the state at power-on
(R45). The model's own fields are `agenda` and `draws`. -/

namespace Sys2Proof.Machine

/-- The bank's contents: the addresses whose byte differs from the reset contents, addresses strictly rising. An address
not listed reads as `Config.resetByte` (notes/assumptions/18.md). -/
abbrev Memory := List Host.Cell

/-- `MODE` (R29). -/
inductive Mode where
  /-- bus bytes are forwarded to the host -/
  | relay
  /-- bus bytes are captured -/
  | divert
  deriving DecidableEq, Repr

/-- `BUSDIR` (R31). -/
inductive BusDir where
  | listen
  | drive
  deriving DecidableEq, Repr

/-- `SEQ`, the main sequencer's control state (R34). -/
inductive Seq where
  | idle
  | rrEnter
  | rrReset
  | rrDrive
  | rrTx
  | rrListen
  | rrArm
  | rrPoll
  | rrCheck
  | rrExit
  | srEnter
  | srHdr
  | srNext
  | srEmit
  | srCk
  | srFlush
  | srExit
  deriving DecidableEq, Repr

/-- The result codes (60_exceptions.md R161). -/
inductive ResultCode where
  | ok
  | rangeError
  | timeout
  | checksumError
  deriving DecidableEq, Repr

/-- `RES`, the two parts of the result port (R36). -/
structure ResultPort where
  status : Byte
  data : List Byte
  deriving DecidableEq, Repr

/-- The events of `HOSTLOG` (R41). -/
inductive HostEvent where
  | byte (b : Byte)
  | flush
  | reset
  deriving DecidableEq, Repr

/-- The events of `BUSLOG` (R41). -/
inductive BusEvent where
  | drive
  | listen
  | byte (b : Byte)
  | reset
  deriving DecidableEq, Repr

/-- The events of `PERSISTLOG` (R41). -/
inductive PersistEvent where
  | persist (a : Nat) (s : List Byte)
  | reset
  deriving DecidableEq, Repr

/-- One move of one agent (R25, R44): the unit of the interleaving. -/
inductive Move where
  /-- the main sequencer takes its step, if it has one -/
  | main
  /-- the bus transport delivers a byte (43_bridge_mode.md R141) -/
  | arrive (b : Byte)
  /-- the tick source ticks (R32) -/
  | tick
  /-- reset (70_reset_and_hazards.md R184) -/
  | reset
  /-- the dispatcher presents a byte sequence on the command port (R38) -/
  | present (bs : List Byte)
  deriving DecidableEq, Repr

/-- The main sequencer's working registers (R35), under the spec's names in lower case. -/
structure Working where
  opr : Byte
  t : Byte
  a : Byte
  c : Byte
  data : List Byte
  ids : List Byte
  l : Byte
  txBuf : List Byte
  i : Nat
  j : Nat
  k : Nat
  sum : Byte
  t0 : Nat
  tmo : Nat
  rrst : ResultCode
  rrData : List Byte
  slice : List Byte
  owner : Bool
  deriving DecidableEq, Repr

structure State where
  /-- the parameters of 00_scope.md R9, constant (20_memory.md R68) -/
  cfg : Config
  /-- `BANK` (R26, R27) -/
  bank : Memory
  /-- `MODE` (R29) -/
  mode : Mode
  /-- `CAPBUF` (R30) -/
  capBuf : List Byte
  /-- `CAPCNT` (R30) -/
  capCnt : Nat
  /-- `BUSDIR` (R31) -/
  busDir : BusDir
  /-- `TICK` (R32) -/
  tick : Nat
  /-- `HOSTPEND` (R33) -/
  hostPend : Nat
  /-- `SEQ` (R34) -/
  seq : Seq
  /-- the working registers (R35, R39) -/
  reg : Working
  /-- `RES` (R36) -/
  res : ResultPort
  /-- `RES_VALID` (R36) -/
  resValid : Bool
  /-- `REFUSED` (R40) -/
  refused : Bool
  /-- `HOSTLOG` (R41) -/
  hostLog : List HostEvent
  /-- `BUSLOG` (R41) -/
  busLog : List BusEvent
  /-- `PERSISTLOG` (R41) -/
  persistLog : List PersistEvent
  /-- the sequence of result-port values, the fourth part of an observation (00_scope.md R23) -/
  resLog : List ResultPort
  /-- the byte sequences presented on the command port and not yet taken, the first one foremost (R38, R88) -/
  cmdPort : List (List Byte)
  /-- the model's own: the moves still to come, the next one first (notes/assumptions/1.md) -/
  agenda : List Move
  /-- the model's own: the reset events so far, the index of the next free values (notes/assumptions/10.md) -/
  draws : Nat
  deriving DecidableEq, Repr

/-- Why the machine stops. The spec has no fault: a failure is a result (60_exceptions.md R171). -/
inductive Fault where
  /-- Raised by RR_TX, SR_HDR and SR_EMIT when their index register is past the end of the list it indexes. The spec gives
  no such access a meaning and no run reaches one. Safe: the model stops where nothing is said. -/
  | workingIndex (seq : Seq)
  deriving DecidableEq, Repr

/-- Why something has no meaning in the model. -/
inductive Refusal where
  /-- Raised by an arm of exec whose instruction has no meaning yet. No arm raises it now. Safe. -/
  | notModelled (mnemonic : String)
  /-- Raised by State.configure for parameters that break a constraint of R9: "A model refuses it at configuration time"
  (R10). Safe. -/
  | badConfiguration
  deriving DecidableEq, Repr

/-- The working registers at power-on. The spec leaves them unspecified (R35, R45); DESIGN CHOICE, unsafe
(notes/assumptions/7.md). -/
def Working.powerOn : Working where
  opr := 0
  t := 0
  a := 0
  c := 0
  data := []
  ids := []
  l := 0
  txBuf := List.replicate 8 0
  i := 0
  j := 0
  k := 0
  sum := 0
  t0 := 0
  tmo := 0
  rrst := .ok
  rrData := []
  slice := []
  owner := false

/-- The block of configuration `c` at power-on (R45). `capBuf`, `reg` and `res`, which the spec leaves unspecified, hold
the values of notes/assumptions/7.md to 9.md; the tick counter holds the draw `TICK_INIT`. -/
def State.resetWith (c : Config) : State where
  cfg := c
  bank := []
  mode := .relay
  capBuf := List.replicate c.cap 0
  capCnt := 0
  busDir := .listen
  tick := c.tickInit % 2 ^ c.tickW
  hostPend := 0
  seq := .idle
  reg := .powerOn
  res := ⟨0, []⟩
  resValid := false
  refused := false
  hostLog := []
  busLog := []
  persistLog := []
  resLog := []
  cmdPort := []
  agenda := []
  draws := 0

/-- The block at hand right after reset. -/
def State.reset : State := State.resetWith Config.device

end Sys2Proof.Machine
end

