-- ==== Sys2Proof/Machine/Ops.lean ====
section
/-! DEFINITION. The named operations over the bank, the logs, the ports and the capture buffer; `raise`, the one way an
operation fails; and the host send path. -/

namespace Sys2Proof.Machine

/-! ## The register bank -/

/-- Byte `a` of memory `m` over the contents `dflt` of addresses not listed. -/
def Memory.read (dflt : Nat → Byte) : Memory → Nat → Byte
  | [], a => dflt a
  | (x, v) :: m, a => if x = a then v else Memory.read dflt m a

/-- `m` with byte `a` set to `v`, in canonical form: a byte equal to what an unlisted address reads as is not listed. -/
def Memory.write (dflt : Nat → Byte) : Memory → Nat → Byte → Memory
  | [], a, v => if v = dflt a then [] else [(a, v)]
  | (x, w) :: m, a, v =>
    if a < x then (if v = dflt a then (x, w) :: m else (a, v) :: (x, w) :: m)
    else if a = x then (if v = dflt a then m else (a, v) :: m)
    else (x, w) :: Memory.write dflt m a v

/-- The canonical form: addresses strictly rising from `lo` on, and no byte equal to what an unlisted address reads as. -/
def Memory.wfFrom (dflt : Nat → Byte) : Nat → Memory → Bool
  | _, [] => true
  | lo, (x, v) :: m => decide (lo ≤ x) && decide (v ≠ dflt x) && Memory.wfFrom dflt (x + 1) m

def Memory.wf (dflt : Nat → Byte) (m : Memory) : Bool := Memory.wfFrom dflt 0 m

/-- `BANK[a]`, read with no check (00_scope.md R15). -/
def State.bankAt (s : State) (a : Nat) : Byte := Memory.read s.cfg.resetByte s.bank a

/-- `MemRead(a, n)` (R15). -/
def memRead (s : State) (a : Nat) : Nat → List Byte
  | 0 => []
  | n + 1 => s.bankAt a :: memRead s (a + 1) n

/-- `BANK[a] <- v` (R15). -/
def State.setBankAt (s : State) (a : Nat) (v : Byte) : State :=
  { s with bank := Memory.write s.cfg.resetByte s.bank a v }

/-- `MemWrite(a, n, s)` (R15): the bytes at rising addresses (20_memory.md R54). -/
def memWrite (s : State) (a : Nat) : List Byte → State
  | [] => s
  | v :: vs => memWrite (s.setBankAt a v) (a + 1) vs

/-- The whole of `BANK`, as `timeout` reads it (42_bus_transaction.md R125). -/
def State.bankBytes (s : State) : List Byte := memRead s 0 s.cfg.bankSize

/-! ## The sequencer, the mode and the bus direction -/

/-- `SEQ <- q` (R15, R34). -/
def State.goto (s : State) (q : Seq) : State := { s with seq := q }

/-- `MODE <- m` (43_bridge_mode.md R135, R136). -/
def State.setMode (s : State) (m : Mode) : State := { s with mode := m }

/-- The working registers set to `r`. -/
def State.setReg (s : State) (r : Working) : State := { s with reg := r }

/-! ## The environment primitives (00_scope.md R17) -/

/-- `BusDrive()` (R17, R31). -/
def State.busDrive (s : State) : State := { s with busLog := s.busLog ++ [.drive], busDir := .drive }

/-- `BusListen()` (R17, R31). -/
def State.busListen (s : State) : State := { s with busLog := s.busLog ++ [.listen], busDir := .listen }

/-- `BusSend(b)` (R17); it always completes (60_exceptions.md R177). -/
def State.busSend (s : State) (b : Byte) : State := { s with busLog := s.busLog ++ [.byte b] }

/-- `Persist(a, d)` (R17, D18). -/
def State.persist (s : State) (a : Nat) (d : List Byte) : State :=
  { s with persistLog := s.persistLog ++ [.persist a d] }

/-- `HostFlush()` and the count it clears (R17, R33). -/
def State.hostFlush (s : State) : State := { s with hostLog := s.hostLog ++ [.flush], hostPend := 0 }

/-- `HostSend(b)` and the count it advances (R17, R33). -/
def State.hostSend (s : State) (b : Byte) : State :=
  { s with hostLog := s.hostLog ++ [.byte b], hostPend := s.hostPend + 1 }

/-- `HostSendT(b)`, the block's only way to send a byte to the host (44_sync_read.md R147). -/
def State.hostSendT (s : State) (b : Byte) : State :=
  if s.cfg.flushThreshold ≤ (s.hostSend b).hostPend then (s.hostSend b).hostFlush else s.hostSend b

/-! ## The capture buffer -/

/-- `capture(b)` (43_bridge_mode.md R142): append, or drop the byte without a trace when the buffer is full. -/
def State.capture (s : State) (b : Byte) : State :=
  if s.capCnt < s.cfg.cap then { s with capBuf := s.capBuf.set s.capCnt b, capCnt := s.capCnt + 1 } else s

/-! ## Results, failures and refusals -/

/-- The numeric result code (60_exceptions.md R161). -/
def ResultCode.code : ResultCode → Byte
  | .ok => 0
  | .rangeError => 1
  | .timeout => 2
  | .checksumError => 3

/-- `Result(status, data)` (R16, R36), one more value in the sequence the result port takes (R23). -/
def State.result (s : State) (code : ResultCode) (data : List Byte) : State :=
  { s with res := ⟨code.code, data⟩, resValid := true, resLog := s.resLog ++ [⟨code.code, data⟩] }

/-- A single-step operation's end: the result, and `SEQ <- IDLE` (R34). -/
def State.finish (s : State) (code : ResultCode) (data : List Byte) : State := (s.result code data).goto .idle

/-- `raise <Error>([])` of a single-step operation (R16, R171): no state is saved, no mode changes, nothing but the result
port is written. -/
def State.raise (s : State) (code : ResultCode) : State := s.finish code []

/-- `refuse(reason)` (R16, R40, R165): the mark, "and does nothing else" (notes/assumptions/3.md). -/
def State.refuse (s : State) : State := { s with refused := true }

end Sys2Proof.Machine
end

