-- ==== Sys2Proof/Machine/Operands.lean ====
section
/-! DEFINITION. Operand forms: the checksum and the frames (00_scope.md R14, 41_packet_codec.md R104 to R111), the bound
predicate (40_register_bank.md R92), the admitted domains, and the latching of operands (10_state.md R38). -/

namespace Sys2Proof.Machine

/-! ## Checksum and frames -/

/-- `sum(s)`, in `Nat` (R13). -/
def sumBytes : List Byte → Nat
  | [] => 0
  | b :: bs => b.toNat + sumBytes bs

/-- `sum8(s)` (R14). -/
def sum8 (bs : List Byte) : Nat := sumBytes bs % 256

/-- `ck(s)` (R14). -/
def ck (bs : List Byte) : Byte := byte (255 - sum8 bs)

/-- `frameck(id, len, code, params)` (R104). -/
def frameck (id len code : Byte) (params : List Byte) : Byte := ck ([id, len, code] ++ params)

/-- `mkframe(id, code, params)`, for at most 253 parameters (R105). -/
def mkframe (id code : Byte) (params : List Byte) : List Byte :=
  [hdr, hdr, id, byte (params.length + 2), code] ++ params ++
    [frameck id (byte (params.length + 2)) code params]

/-- `validate(raw)` (R106): at least six bytes, and the sum from the id through the checksum is 255 mod 256. -/
def validate (raw : List Byte) : Bool :=
  if raw.length < 6 then false else decide (sum8 (raw.drop 2) = 255)

/-- `encodeReadCommand(T, A, C)` (R111, 30_encoding.md R77). -/
def encodeReadCommand (cfg : Config) (t a c : Byte) : List Byte := mkframe t cfg.cmdRead [a, c]

/-- The status frame of error code `e` and payload `p` (30_encoding.md R79). -/
def statusFrame (cfg : Config) (e : Byte) (p : List Byte) : List Byte := mkframe cfg.bridgeId e p

/-- The bytes SR_HDR sends (44_sync_read.md R150). -/
def syncHeader (cfg : Config) (l : Byte) : List Byte := [hdr, hdr, cfg.bridgeId, l, errNone]

/-! ## The bound predicate -/

/-- `legal(a, v)` (R92): inclusive bounds, and false where the table has no entry. -/
def legal (cfg : Config) (a : Nat) (v : Byte) : Bool :=
  if a < startRW then false
  else match cfg.bound (a - startRW) with
    | none => false
    | some (lo, hi) => decide (lo ≤ v ∧ v ≤ hi)

/-- `legal(A + i, D[i])` for every `i` (R96 (c)). -/
def legalAll (cfg : Config) (a : Nat) : List Byte → Bool
  | [] => true
  | v :: vs => legal cfg a v && legalAll cfg (a + 1) vs

/-! ## Admitted domains and latching -/

/-- At most `n` elements. -/
def atMost : List Byte → Nat → Bool
  | [], _ => true
  | _ :: _, 0 => false
  | _ :: bs, n + 1 => atMost bs n

/-- The admitted domain of each operation (R93, R95, R108, R110, R112, R118, R146). -/
def admitted (cfg : Config) : Instr → Bool
  | .regRead .. => true
  | .regWrite _ d => atMost d 255
  | .encodeStatus _ p => atMost p maxParams
  | .encodeReadCmd .. => true
  | .validate r => atMost r maxFrame
  | .readRemote .. => true
  | .syncRead _ c ids =>
    atMost ids 255 && atMost ids cfg.maxSyncIds && decide (2 + c.toNat * ids.length ≤ 255)

/-- Accept's latching (R38, "written by" column of R35): `OPR` always, and the operands that have a register there. The
target id of ENCODE_READ_CMD and the error code of ENCODE_STATUS have none (notes/assumptions/12.md). `OWNER` is set by
accept for READ_REMOTE and SYNC_READ (R39). -/
def latch (i : Instr) (r : Working) : Working :=
  match i with
  | .regRead a c => { r with opr := i.selector, a := a, c := c }
  | .regWrite a d => { r with opr := i.selector, a := a, data := d }
  | .encodeStatus _ p => { r with opr := i.selector, data := p }
  | .encodeReadCmd _ a c => { r with opr := i.selector, a := a, c := c }
  | .validate d => { r with opr := i.selector, data := d }
  | .readRemote t a c => { r with opr := i.selector, t := t, a := a, c := c, owner := true }
  | .syncRead a c ids => { r with opr := i.selector, a := a, c := c, ids := ids, owner := false }

/-- The state an accepted command's first step starts from: `RES_VALID <- 0` and the operands latched (R38). -/
def accepted (i : Instr) (s : State) : State := { s with resValid := false, reg := latch i s.reg }

/-- Command accept (R38): held while the block is busy, refused outside the admitted domain, else `first` from the latched
state. -/
def accept (i : Instr) (s : State) (first : State → State) : Host.Outcome State Fault Refusal :=
  if s.seq = .idle then
    if admitted s.cfg i then .next (first (accepted i s)) else .next s.refuse
  else .next s

end Sys2Proof.Machine
end

