-- ==== Sys2Proof/Machine/Flags.lean ====
section
/-! DEFINITION. The derived flags and conditions: BUSY, the two conditions of RR_POLL, and whether the main sequencer has a
step. The block has no condition codes (10_state.md R37, R42). -/

namespace Sys2Proof.Machine

/-- `BUSY` (R37). -/
def State.busy (s : State) : Bool := decide (s.seq ≠ .idle)

/-- `timeout(BANK)` (42_bus_transaction.md R125, D24). The free function's value is carried into `1 .. 2^TICK_W - 1`, the
range R9 gives it. -/
def State.timeoutNow (s : State) : Nat :=
  match s.cfg.timeout with
  | .constant n => n
  | .bankByte a => (s.bankAt a).toNat
  | .uninterpreted => 1 + Config.freeTimeout s.bankBytes % (2 ^ s.cfg.tickW - 1)

/-- `(TICK - T0) mod 2^TICK_W` (R126, R129). -/
def State.elapsed (s : State) : Nat :=
  (s.tick + 2 ^ s.cfg.tickW - s.reg.t0 % 2 ^ s.cfg.tickW) % 2 ^ s.cfg.tickW

/-- `done` of RR_POLL (R126), in `Nat`. -/
def State.done (s : State) : Bool := decide (s.reg.c.toNat + 6 ≤ s.capCnt)

/-- `expired` of RR_POLL (R126). -/
def State.expired (s : State) : Bool := decide (s.reg.tmo ≤ s.elapsed)

/-- Whether the main sequencer has a step: not in IDLE with nothing presented (R38), and not in RR_POLL before the response
or the deadline (R126). -/
def State.mainEnabled (s : State) : Bool :=
  match s.seq with
  | .idle => !s.cmdPort.isEmpty
  | .rrPoll => s.done || s.expired
  | _ => true

end Sys2Proof.Machine
end

