-- ==== Sys2Proof/Machine/BusTransaction.lean ====
section
/-! DEFINITION. READ_REMOTE and its states (42_bus_transaction.md). Each function is one atomic main-sequencer step. -/

namespace Sys2Proof.Machine

/-- READ_REMOTE's first step: enter the state machine (R119). -/
def readRemoteStep (s : State) : State := s.goto .rrEnter

/-- READ_REMOTE (R118, R119). -/
def execReadRemote (t a c : Byte) (s : State) : Host.Outcome State Fault Refusal :=
  accept (.readRemote t a c) s readRemoteStep

/-- RR_ENTER: take the bridge mode, if this command owns it (R120). -/
def rrEnterStep (s : State) : State :=
  (if s.reg.owner then s.setMode .divert else s).goto .rrReset

/-- RR_RESET: reset the capture count, keeping the contents, and build the command frame (R121, D27). -/
def rrResetStep (s : State) : State :=
  { s with
    capCnt := 0
    reg := { s.reg with txBuf := encodeReadCommand s.cfg s.reg.t s.reg.a s.reg.c, i := 0 }
    seq := .rrDrive }

/-- RR_DRIVE (R122). -/
def rrDriveStep (s : State) : State := s.busDrive.goto .rrTx

/-- RR_TX: one byte of the frame a step (R123). -/
def rrTxStep (s : State) : Host.Outcome State Fault Refusal :=
  match s.reg.txBuf[s.reg.i]? with
  | none => .fault (.workingIndex .rrTx)
  | some b =>
    .next (((s.busSend b).setReg { s.reg with i := s.reg.i + 1 }).goto
      (if s.reg.i + 1 = 8 then .rrListen else .rrTx))

/-- RR_LISTEN (R124). -/
def rrListenStep (s : State) : State := s.busListen.goto .rrArm

/-- RR_ARM: start the timeout (R125). -/
def rrArmStep (s : State) : State :=
  (s.setReg { s.reg with t0 := s.tick, tmo := s.timeoutNow }).goto .rrPoll

/-- RR_POLL (R126): the response is tested first; with neither condition the main sequencer is held and takes no step. -/
def rrPollStep (s : State) : State :=
  if s.done then s.goto .rrCheck
  else if s.expired then (s.setReg { s.reg with rrst := .timeout, rrData := [] }).goto .rrExit
  else s

/-- The frame RR_CHECK validates: the first `C + 6` captured bytes (R127). -/
def State.response (s : State) : List Byte := s.capBuf.take (s.reg.c.toNat + 6)

/-- RR_CHECK: validate the response and take its payload, offsets `5 .. 4+C` (R127). -/
def rrCheckStep (s : State) : State :=
  (s.setReg
    (if validate s.response then
      { s.reg with rrst := .ok, rrData := (s.response.drop 5).take s.reg.c.toNat }
    else { s.reg with rrst := .checksumError, rrData := [] })).goto .rrExit

/-- RR_EXIT (R128): a command gives back the mode and delivers its result in one step; inside a batch the outcome becomes
the device's slice, sentinels on a failure, and the mode stays. -/
def rrExitStep (s : State) : State :=
  if s.reg.owner then ((s.setMode .relay).result s.reg.rrst s.reg.rrData).goto .idle
  else
    (s.setReg
      { s.reg with
        slice := if s.reg.rrst = .ok then s.reg.rrData else List.replicate s.reg.c.toNat sentinel
        j := 0 }).goto .srEmit

end Sys2Proof.Machine
end

