-- ==== Sys2Proof/Machine/PacketCodec.lean ====
section
/-! DEFINITION. ENCODE_STATUS, ENCODE_READ_CMD and VALIDATE (41_packet_codec.md). -/

namespace Sys2Proof.Machine

/-- ENCODE_STATUS's step on its latched payload: the frame goes to the result port only (R109, D35). -/
def encodeStatusStep (e : Byte) (s : State) : State := s.finish .ok (statusFrame s.cfg e s.reg.data)

/-- ENCODE_READ_CMD's step on its latched address and count (R111). -/
def encodeReadCmdStep (t : Byte) (s : State) : State := s.finish .ok (encodeReadCommand s.cfg t s.reg.a s.reg.c)

/-- VALIDATE's step on its latched frame: an invalid frame is an answer, not a failure (R113, D5). -/
def validateStep (s : State) : State := s.finish .ok [if validate s.reg.data then 1 else 0]

/-- ENCODE_STATUS (R108, R109). -/
def execEncodeStatus (e : Byte) (p : List Byte) (s : State) : Host.Outcome State Fault Refusal :=
  accept (.encodeStatus e p) s (encodeStatusStep e)

/-- ENCODE_READ_CMD (R110, R111). -/
def execEncodeReadCmd (t a c : Byte) (s : State) : Host.Outcome State Fault Refusal :=
  accept (.encodeReadCmd t a c) s (encodeReadCmdStep t)

/-- VALIDATE (R112, R113). -/
def execValidate (r : List Byte) (s : State) : Host.Outcome State Fault Refusal :=
  accept (.validate r) s validateStep

end Sys2Proof.Machine
end

