-- ==== Sys2Proof/Machine/RegisterBank.lean ====
section
/-! DEFINITION. REG_READ and REG_WRITE (40_register_bank.md). -/

namespace Sys2Proof.Machine

/-- REG_READ's step on its latched operands (R94); the sum is in `Nat` (D16). -/
def regReadStep (s : State) : State :=
  if s.reg.c = 0 ∨ s.cfg.bankSize < s.reg.a.toNat + s.reg.c.toNat then s.raise .rangeError
  else s.finish .ok (memRead s s.reg.a.toNat s.reg.c.toNat)

/-- REG_WRITE's acceptance (R96): the start address, the end, and every byte's bounds. -/
def writeAccepted (cfg : Config) (a : Nat) (d : List Byte) : Bool :=
  decide (startRW ≤ a) && decide (a + d.length ≤ cfg.bankSize) && legalAll cfg a d

/-- The persistence signal of an accepted write: none for a write of no bytes (R97, D17). -/
def persistWrite (s : State) (a : Nat) : List Byte → State
  | [] => s
  | v :: vs => s.persist a (v :: vs)

/-- REG_WRITE's one atomic step on its latched operands (R97). -/
def regWriteStep (s : State) : State :=
  if writeAccepted s.cfg s.reg.a.toNat s.reg.data then
    (persistWrite (memWrite s s.reg.a.toNat s.reg.data) s.reg.a.toNat s.reg.data).finish .ok []
  else s.raise .rangeError

/-- REG_READ (R93, R94). -/
def execRegRead (a c : Byte) (s : State) : Host.Outcome State Fault Refusal :=
  accept (.regRead a c) s regReadStep

/-- REG_WRITE (R95, R97). -/
def execRegWrite (a : Byte) (d : List Byte) (s : State) : Host.Outcome State Fault Refusal :=
  accept (.regWrite a d) s regWriteStep

end Sys2Proof.Machine
end

