-- ==== Sys2Proof/Machine/SyncRead.lean ====
section
/-! DEFINITION. SYNC_READ and its states (44_sync_read.md). Each function is one atomic main-sequencer step. -/

namespace Sys2Proof.Machine

/-- SYNC_READ's first step: enter the batch (R148). -/
def syncReadStep (s : State) : State := s.goto .srEnter

/-- SYNC_READ (R146, R148). -/
def execSyncRead (a c : Byte) (ids : List Byte) (s : State) : Host.Outcome State Fault Refusal :=
  accept (.syncRead a c ids) s syncReadStep

/-- SR_ENTER: take the mode and compute the declared length (R149). -/
def srEnterStep (s : State) : State :=
  ((s.setMode .divert).setReg
    { s.reg with l := byte (2 + s.reg.c.toNat * s.reg.ids.length), j := 0, sum := 0 }).goto .srHdr

/-- SR_HDR: one header byte a step; the two `0xFF` are not summed (R150). -/
def srHdrStep (s : State) : Host.Outcome State Fault Refusal :=
  match (syncHeader s.cfg s.reg.l)[s.reg.j]? with
  | none => .fault (.workingIndex .srHdr)
  | some b =>
    .next (((s.hostSendT b).setReg
      { s.reg with
        sum := if 2 ≤ s.reg.j then s.reg.sum + b else s.reg.sum
        j := s.reg.j + 1
        k := if s.reg.j + 1 = 5 then 0 else s.reg.k }).goto
      (if s.reg.j + 1 = 5 then .srNext else .srHdr))

/-- SR_NEXT: the next device in the given order, or the checksum (R151). -/
def srNextStep (s : State) : State :=
  match s.reg.ids[s.reg.k]? with
  | some id => (s.setReg { s.reg with t := id }).goto .rrReset
  | none => s.goto .srCk

/-- SR_EMIT: one byte of the device's slice a step (R152). -/
def srEmitStep (s : State) : Host.Outcome State Fault Refusal :=
  if s.reg.j < s.reg.c.toNat then
    match s.reg.slice[s.reg.j]? with
    | none => .fault (.workingIndex .srEmit)
    | some b =>
      .next ((s.hostSendT b).setReg { s.reg with sum := s.reg.sum + b, j := s.reg.j + 1 })
  else .next ((s.setReg { s.reg with k := s.reg.k + 1 }).goto .srNext)

/-- SR_CK: the checksum byte (R153). -/
def srCkStep (s : State) : State := (s.hostSendT (byte 255 - s.reg.sum)).goto .srFlush

/-- SR_FLUSH: commit the tail of the frame (R154). -/
def srFlushStep (s : State) : State := (if 0 < s.hostPend then s.hostFlush else s).goto .srExit

/-- SR_EXIT: give back the mode and deliver the result in one step (R155). -/
def srExitStep (s : State) : State := ((s.setMode .relay).result .ok []).goto .idle

end Sys2Proof.Machine
end

