-- ==== Sys2Proof/Machine/Dispatch.lean ====
section
/-! DEFINITION. Command dispatch (10_state.md R38): one arm for each operation of the command port. -/

namespace Sys2Proof.Machine

def exec (i : Instr) (s : State) : Host.Outcome State Fault Refusal :=
  match i with
  | .regRead a c => Sys2Proof.Machine.execRegRead a c s
  | .regWrite a d => Sys2Proof.Machine.execRegWrite a d s
  | .encodeStatus e p => Sys2Proof.Machine.execEncodeStatus e p s
  | .encodeReadCmd t a c => Sys2Proof.Machine.execEncodeReadCmd t a c s
  | .validate r => Sys2Proof.Machine.execValidate r s
  | .readRemote t a c => Sys2Proof.Machine.execReadRemote t a c s
  | .syncRead a c ids => Sys2Proof.Machine.execSyncRead a c ids s

end Sys2Proof.Machine
end

