-- ==== Sys2Proof/Machine/Events.lean ====
section
/-! DEFINITION. The asynchronous events: a bus byte's arrival (43_bridge_mode.md R141), a tick (10_state.md R32), reset
(70_reset_and_hazards.md R184); the dispatcher's presenting of a command (R38); and configuration (00_scope.md R10). -/

namespace Sys2Proof.Machine

/-- `arrive(b)` (R141): relayed or captured by the mode alone; BUSDIR, SEQ and the bank are not read. -/
def arriveEvent (b : Byte) (s : State) : State :=
  match s.mode with
  | .relay => s.hostSendT b
  | .divert => s.capture b

/-- A tick (R32), "with no other effect". -/
def tickEvent (s : State) : State := { s with tick := (s.tick + 1) % 2 ^ s.cfg.tickW }

/-- A free result code. -/
def freeCode (draw slot : Nat) : ResultCode :=
  match Config.freeNat draw slot % 4 with
  | 0 => .ok
  | 1 => .rangeError
  | 2 => .timeout
  | _ => .checksumError

/-- `n` free bytes. -/
def freeFill (draw slot n : Nat) : List Byte :=
  (Config.freeBytes draw slot ++ List.replicate n 0).take n

/-- The working registers after reset event number `d`: free values, each within the width R35 gives its register. -/
def freeWorking (cfg : Config) (d : Nat) : Working where
  opr := Config.freeByte d 0
  t := Config.freeByte d 1
  a := Config.freeByte d 2
  c := Config.freeByte d 3
  data := (Config.freeBytes d 4).take maxFrame
  ids := (Config.freeBytes d 5).take cfg.maxSyncIds
  l := Config.freeByte d 6
  txBuf := freeFill d 7 8
  i := Config.freeNat d 8 % 9
  j := Config.freeNat d 9
  k := Config.freeNat d 10
  sum := Config.freeByte d 11
  t0 := Config.freeNat d 12 % 2 ^ cfg.tickW
  tmo := Config.freeNat d 13
  rrst := freeCode d 14
  rrData := (Config.freeBytes d 15).take 255
  slice := (Config.freeBytes d 16).take 255
  owner := decide (Config.freeNat d 17 % 2 = 1)

/-- Reset (R184): the values of R45, free values where R184 says "unspecified" or "a fresh draw", a marker on each log.
REFUSED, the logs, the sequence of results, the command port and the agenda stay (R185: no `BusListen()` is issued). -/
def resetEvent (s : State) : State :=
  { s with
    bank := []
    mode := .relay
    capBuf := freeFill s.draws 18 s.cfg.cap
    capCnt := 0
    busDir := .listen
    tick := Config.freeNat s.draws 19 % 2 ^ s.cfg.tickW
    hostPend := 0
    seq := .idle
    reg := freeWorking s.cfg s.draws
    res := ⟨Config.freeByte s.draws 20, (Config.freeBytes s.draws 21).take maxFrame⟩
    resValid := false
    hostLog := s.hostLog ++ [.reset]
    busLog := s.busLog ++ [.reset]
    persistLog := s.persistLog ++ [.reset]
    draws := s.draws + 1 }

/-- The dispatcher presents a byte sequence (R38, R179): it waits behind what is already presented. -/
def presentEvent (bs : List Byte) (s : State) : State := { s with cmdPort := s.cmdPort ++ [bs] }

/-- Configuration time (R10): a choice of parameters that breaks a constraint of R9 is refused. -/
def State.configure (c : Config) : Host.Outcome State Fault Refusal :=
  if c.valid then .next (State.resetWith c) else .refused .badConfiguration

end Sys2Proof.Machine
end

