-- ==== Sys2Proof/Machine/Sequencer.lean ====
section
/-! DEFINITION. The main sequencer's step by SEQ (10_state.md R34, R38), and one move of one agent (R25, R44). -/

namespace Sys2Proof.Machine

/-- The command port after a command is taken from its first sequence: "Bytes after the total length belong to the next
command" (30_encoding.md R88). -/
def portAfter (rest : List Byte) (more : List (List Byte)) : List (List Byte) :=
  match rest with
  | [] => more
  | b :: bs => (b :: bs) :: more

/-- IDLE (R38): nothing presented, no step; a sequence that is no command is refused and withdrawn; a command is executed. -/
def idleStep (s : State) : Host.Outcome State Fault Refusal :=
  match s.cmdPort with
  | [] => .next s
  | bs :: more =>
    match decode bs with
    | .rejected _ => .next { s with cmdPort := more }.refuse
    | .ok i rest => exec i { s with cmdPort := portAfter rest more }

/-- One main-sequencer step (R34). Where it has none, the state stays. -/
def mainStep (s : State) : Host.Outcome State Fault Refusal :=
  match s.seq with
  | .idle => idleStep s
  | .rrEnter => .next (rrEnterStep s)
  | .rrReset => .next (rrResetStep s)
  | .rrDrive => .next (rrDriveStep s)
  | .rrTx => rrTxStep s
  | .rrListen => .next (rrListenStep s)
  | .rrArm => .next (rrArmStep s)
  | .rrPoll => .next (rrPollStep s)
  | .rrCheck => .next (rrCheckStep s)
  | .rrExit => .next (rrExitStep s)
  | .srEnter => .next (srEnterStep s)
  | .srHdr => srHdrStep s
  | .srNext => .next (srNextStep s)
  | .srEmit => srEmitStep s
  | .srCk => .next (srCkStep s)
  | .srFlush => .next (srFlushStep s)
  | .srExit => .next (srExitStep s)

/-- One move of one agent (R44). -/
def takeMove (m : Move) (s : State) : Host.Outcome State Fault Refusal :=
  match m with
  | .main => mainStep s
  | .arrive b => .next (arriveEvent b s)
  | .tick => .next (tickEvent s)
  | .reset => .next (resetEvent s)
  | .present bs => .next (presentEvent bs s)

/-- The move the schedule makes next: the agenda's first, and once the agenda is empty the main sequencer's where it has a
step and a tick where it has none, a schedule with the fairness of 60_exceptions.md R183 (notes/assumptions/1.md). -/
def nextMove (s : State) : Move :=
  match s.agenda with
  | m :: _ => m
  | [] => if s.mainEnabled then .main else .tick

/-- The state the next move acts on: the move is off the agenda. -/
def afterAgenda (s : State) : State := { s with agenda := s.agenda.tail }

/-- The command whose bits are `w` presented first on the command port, with the main sequencer in IDLE and next to move. -/
def placeCommand (s : State) (nbits w : Nat) : State :=
  { s with seq := .idle, cmdPort := tableBytes nbits w :: s.cmdPort, agenda := .main :: s.agenda }

end Sys2Proof.Machine
end

