-- ==== Sys2Proof/Machine/Step.lean ====
section
/-! DEFINITION. One step of the machine: one move of one agent, in the order the agenda gives (10_state.md R44, 20_memory.md
R63). -/

namespace Sys2Proof.Machine

def step (s : State) : Host.Outcome State Fault Refusal := takeMove (nextMove s) (afterAgenda s)

/-- `s` with the command of `nbits` bits `w` where the next step takes it (notes/assumptions/17.md). -/
def State.withFetchWord (s : State) (nbits w : Nat) : State := placeCommand s nbits w

end Sys2Proof.Machine
end

