-- ==== Sys2Proof/Safety.lean ====
section
/-! DEFINITION. The terms the claims use: what an operation leaves alone, the invariant of a run without refusal
(10_state.md R46 and the register widths of R35), and the bytes of a host stream. -/

namespace Sys2Proof.Machine

/-- The next step of the machine is the main sequencer's. -/
def State.mainNext (s : State) : Prop := nextMove s = .main

/-- Everything but SEQ, the working registers, the result port, BANK and PERSISTLOG is the same in `t` as in `s`. -/
def State.SameOutsideBank (s t : State) : Prop :=
  t.cfg = s.cfg ∧ t.mode = s.mode ∧ t.capBuf = s.capBuf ∧ t.capCnt = s.capCnt ∧ t.busDir = s.busDir ∧
  t.tick = s.tick ∧ t.hostPend = s.hostPend ∧ t.refused = s.refused ∧ t.hostLog = s.hostLog ∧
  t.busLog = s.busLog ∧ t.cmdPort = s.cmdPort ∧ t.agenda = s.agenda ∧ t.draws = s.draws

/-- Every byte of the bank reads in `t` as it does in `s`, and nothing was persisted. -/
def State.SameBank (s t : State) : Prop :=
  (∀ x, t.bankAt x = s.bankAt x) ∧ t.persistLog = s.persistLog

/-- `REG_WRITE A, D` is within its bounds (40_register_bank.md R96), `n = len(D)`. -/
def State.WriteInBounds (s : State) (a : Byte) (d : List Byte) : Prop :=
  startRW ≤ a.toNat ∧ a.toNat + d.length ≤ s.cfg.bankSize ∧
  ∀ k v, d[k]? = some v → legal s.cfg (a.toNat + k) v = true

/-- The bank is in canonical form. -/
def State.bankCanonical (s : State) : Prop := Memory.wf s.cfg.resetByte s.bank = true

/-- The working registers and the result port are within the widths of 10_state.md R35 and R36, and a valid status is one of
the four codes (60_exceptions.md R161). -/
structure State.WidthsOk (s : State) : Prop where
  data : s.reg.data.length ≤ maxFrame
  ids : s.reg.ids.length ≤ s.cfg.maxSyncIds
  txBuf : s.reg.txBuf.length = 8
  i : s.reg.i ≤ 8
  t0 : s.reg.t0 < 2 ^ s.cfg.tickW
  rrData : s.reg.rrData.length ≤ 255
  slice : s.reg.slice.length ≤ 255
  resData : s.res.data.length ≤ maxFrame
  status : s.resValid = true → s.res.status.toNat ≤ 3

/-- A sync-read is under way: the transactions do not own the mode, and the declared length fits its byte (44_sync_read.md
R146, R148). -/
def State.InBatch (s : State) : Prop :=
  s.reg.owner = false ∧ 2 + s.reg.c.toNat * s.reg.ids.length ≤ 255

/-- A transaction is under way: a command's own, or one for device `K` of a batch. -/
def State.InTransaction (s : State) : Prop :=
  s.mode = .divert ∧ (s.reg.owner = true ∨ (s.InBatch ∧ s.reg.k < s.reg.ids.length))

/-- What holds in each state of the main sequencer: R46 (a) and (b), and the ranges its index registers keep. -/
def State.SeqOk (s : State) : Prop :=
  match s.seq with
  | .idle => s.mode = .relay
  | .rrEnter => s.mode = .relay ∧ s.reg.owner = true
  | .rrReset => s.InTransaction
  | .rrDrive => s.InTransaction ∧ s.reg.i = 0
  | .rrTx => s.InTransaction ∧ s.reg.i < 8
  | .rrListen => s.InTransaction
  | .rrArm => s.InTransaction
  | .rrPoll => s.InTransaction ∧ 1 ≤ s.reg.tmo ∧ s.reg.tmo < 2 ^ s.cfg.tickW
  | .rrCheck => s.InTransaction ∧ s.reg.c.toNat + 6 ≤ s.capCnt
  | .rrExit => 
    s.InTransaction ∧ (s.reg.rrst = .ok → s.reg.rrData.length = s.reg.c.toNat) ∧
      (s.reg.rrst ≠ .ok → s.reg.rrData = []) ∧ s.reg.rrst ≠ .rangeError
  | .srEnter => s.mode = .relay ∧ s.InBatch
  | .srHdr => s.mode = .divert ∧ s.InBatch ∧ s.reg.j < 5
  | .srNext => s.mode = .divert ∧ s.InBatch ∧ s.reg.k ≤ s.reg.ids.length
  | .srEmit =>
    s.mode = .divert ∧ s.InBatch ∧ s.reg.k < s.reg.ids.length ∧ s.reg.slice.length = s.reg.c.toNat ∧
      s.reg.j ≤ s.reg.c.toNat
  | .srCk => s.mode = .divert ∧ s.InBatch
  | .srFlush => s.mode = .divert ∧ s.InBatch
  | .srExit => s.mode = .divert ∧ s.InBatch

/-- The invariant of every reachable state (R46): a valid configuration, a canonical bank in which every byte that differs
from its reset contents is a legal value at a read/write address, the capture buffer, tick and pending counts in range, no result
while an operation is under way (R36, R38), the port's valid result the last of the sequence (R23), the widths, and the
sequencer's own conditions. -/
structure State.Inv (s : State) : Prop where
  cfg : s.cfg.valid = true
  bankForm : s.bankCanonical
  bankLegal : ∀ cell ∈ s.bank, legal s.cfg cell.1 cell.2 = true
  capBuf : s.capBuf.length = s.cfg.cap
  capCnt : s.capCnt ≤ s.cfg.cap
  tick : s.tick < 2 ^ s.cfg.tickW
  hostPend : s.hostPend < s.cfg.flushThreshold
  noResult : s.seq ≠ .idle → s.resValid = false
  lastResult : s.resValid = true → s.resLog.getLast? = some s.res
  widths : s.WidthsOk
  seq : s.SeqOk

/-- A run of the block under schedule `σ`: at time `n` the agent `σ n` names makes one move (10_state.md R25, R44). The moves
come from `σ`, so the agenda of the states does not matter. -/
def IsRun (σ : Nat → Move) (ρ : Nat → State) : Prop := ∀ n, takeMove (σ n) (ρ n) = .next (ρ (n + 1))

/-- The fairness assumption of an infinite run (60_exceptions.md R183). -/
structure Fair (σ : Nat → Move) (ρ : Nat → State) : Prop where
  /-- (a) the main sequencer is weakly fair: a step, the one of SEQ's state `q`, that stays enabled is eventually taken -/
  mainWeak : ∀ (q : Seq) (n : Nat), (∀ m, n ≤ m → (ρ m).seq = q ∧ (ρ m).mainEnabled = true) → ∃ m, n ≤ m ∧ σ m = .main
  /-- (b) the tick source ticks infinitely often -/
  ticks : ∀ n, ∃ m, n ≤ m ∧ σ m = .tick
  /-- (b) the main sequencer is strongly fair for the RR_POLL step: enabled infinitely often, it is eventually taken -/
  pollStrong : ∀ n, (∀ k, n ≤ k → ∃ m, k ≤ m ∧ (ρ m).seq = .rrPoll ∧ (ρ m).mainEnabled = true) →
    ∃ m, n ≤ m ∧ (ρ m).seq = .rrPoll ∧ (ρ m).mainEnabled = true ∧ σ m = .main

/-- The bytes of a host log, without the flush and reset markers. -/
def hostBytes : List HostEvent → List Byte
  | [] => []
  | .byte b :: es => b :: hostBytes es
  | .flush :: es => hostBytes es
  | .reset :: es => hostBytes es

/-- What a SYNC_READ past SR_ENTER has sent since the host log was `base`, and that SUM is the running sum of it past the two
header bytes (44_sync_read.md R149 to R153). `slices` is the concatenation of the slices of devices 0 to K-1. -/
def State.Streamed (base : List HostEvent) (s : State) (slices : List Byte) : Prop :=
  match s.seq with
  | .idle | .rrEnter | .srEnter => False
  | .srHdr =>
    slices = [] ∧ s.reg.l = byte (2 + s.reg.c.toNat * s.reg.ids.length) ∧
      hostBytes s.hostLog = hostBytes base ++ (syncHeader s.cfg s.reg.l).take s.reg.j ∧
      s.reg.sum = byte (sumBytes (((syncHeader s.cfg s.reg.l).take s.reg.j).drop 2))
  | .srEmit =>
    slices.length = s.reg.c.toNat * s.reg.k ∧ s.reg.l = byte (2 + s.reg.c.toNat * s.reg.ids.length) ∧
      hostBytes s.hostLog =
        hostBytes base ++ syncHeader s.cfg s.reg.l ++ slices ++ s.reg.slice.take s.reg.j ∧
      s.reg.sum = byte (sumBytes ([s.cfg.bridgeId, s.reg.l, errNone] ++ slices ++ s.reg.slice.take s.reg.j))
  | .srCk =>
    slices.length = s.reg.c.toNat * s.reg.ids.length ∧
      s.reg.l = byte (2 + s.reg.c.toNat * s.reg.ids.length) ∧
      hostBytes s.hostLog = hostBytes base ++ syncHeader s.cfg s.reg.l ++ slices ∧
      s.reg.sum = byte (sumBytes ([s.cfg.bridgeId, s.reg.l, errNone] ++ slices))
  | .srFlush | .srExit =>
    slices.length = s.reg.c.toNat * s.reg.ids.length ∧
      hostBytes s.hostLog = hostBytes base ++ mkframe s.cfg.bridgeId errNone slices
  | _ =>
    slices.length = s.reg.c.toNat * s.reg.k ∧ s.reg.l = byte (2 + s.reg.c.toNat * s.reg.ids.length) ∧
      hostBytes s.hostLog = hostBytes base ++ syncHeader s.cfg s.reg.l ++ slices ∧
      s.reg.sum = byte (sumBytes ([s.cfg.bridgeId, s.reg.l, errNone] ++ slices))

end Sys2Proof.Machine
end

