-- ==== Sys2Proof/Certificates/Slice0/Obligations.lean ====
section
/-! DEFINITION. The statements for the provers. Each docstring names the rule of spec/ it formalises. -/

open Sys2Proof Sys2Proof.Machine

/-! ## Encoding and the command port -/

/-- 30_encoding.md R85, R88: decoding an encoded command gives it back and takes exactly its bytes. -/
def Obligations.DecodeOfEncodeGivesTheCommand : Prop :=
  ∀ (i : Instr) (rest : List Byte), i.wellFormed = true → decode (encode i ++ rest) = .ok i rest

/-- 30_encoding.md R85, R88: a sequence that decodes is the encoding of what it decodes to, and the bytes after it. -/
def Obligations.DecodeTakesExactlyAnEncoding : Prop :=
  ∀ (bs : List Byte) (i : Instr) (rest : List Byte), decode bs = .ok i rest →
    i.wellFormed = true ∧ bs = encode i ++ rest

/-- 95_test_vectors.md, 30_encoding.md R85: the spec's own command bytes decode to the commands it names. -/
def Obligations.SpecCommandBytesDecode : Prop :=
  decode [0x01, 0x04, 0x01] = .ok (.regRead 4 1) [] ∧
  decode [0x02, 0x04, 0x03, 0x32, 0x01, 0x00] = .ok (.regWrite 4 [50, 1, 0]) [] ∧
  decode [0x03, 0x00, 0x04, 0x12, 0x34, 0x05, 0xFD] = .ok (.encodeStatus 0 [0x12, 0x34, 0x05, 0xFD]) [] ∧
  decode [0x04, 0xFE, 0x00, 0xFF] = .ok (.encodeReadCmd 0xFE 0 255) [] ∧
  decode [0x05, 0x06, 0x00, 0xFF, 0xFF, 0x01, 0x02, 0x00, 0xFC] =
    .ok (.validate [0xFF, 0xFF, 0x01, 0x02, 0x00, 0xFC]) [] ∧
  decode [0x06, 0x01, 0x04, 0x02] = .ok (.readRemote 1 4 2) [] ∧
  decode [0x07, 0x04, 0x02, 0x02, 0x01, 0x02] = .ok (.syncRead 4 2 [1, 2]) []

/-- 30_encoding.md R87: the reserved selectors, and only they, select no operation, and the accept step refuses them. The
model's reading: the sequence is withdrawn whole and RES_VALID stays (notes/assumptions/2.md, 3.md). -/
def Obligations.ReservedSelectorsAreRefused : Prop :=
  (∀ (op : Byte) (bs : List Byte),
    (op.toNat = 0 ∨ 8 ≤ op.toNat) ↔ decode (op :: bs) = .rejected .unknownOp) ∧
  ∀ (s : State) (op : Byte) (bs : List Byte) (more : List (List Byte)),
    s.seq = .idle → s.mainNext → s.cmdPort = (op :: bs) :: more → (op.toNat = 0 ∨ 8 ≤ op.toNat) →
    step s = .next { s with agenda := s.agenda.tail, cmdPort := more, refused := true }

/-- 30_encoding.md R88: a sequence shorter than its command's total length is refused as OutOfDomain. The model's reading: the
sequence is withdrawn whole, RES_VALID stays, and the empty sequence is such a one (notes/assumptions/2.md, 3.md, 20.md). -/
def Obligations.ShortCommandIsOutOfDomain : Prop :=
  ∀ (i : Instr) (n : Nat), i.wellFormed = true → n < i.size →
    decode ((encode i).take n) = .rejected .outOfDomain ∧
    ∀ (s : State) (more : List (List Byte)),
      s.seq = .idle → s.mainNext → s.cmdPort = (encode i).take n :: more →
      step s = .next { s with agenda := s.agenda.tail, cmdPort := more, refused := true }

/-- 10_state.md R38: the main sequencer's step in IDLE runs the command it decodes; the bytes after it stay presented. -/
def Obligations.StepRunsTheDecodedCommand : Prop :=
  ∀ (s : State) (bs rest : List Byte) (more : List (List Byte)) (i : Instr),
    s.seq = .idle → s.mainNext → s.cmdPort = bs :: more → decode bs = .ok i rest →
    step s = exec i
      { s with agenda := s.agenda.tail, cmdPort := if rest = [] then more else rest :: more }

/-- 10_state.md R38: while the block is busy the command is held: no step takes a presented command off the port, and the
main sequencer's leaves the port as it is. That exec, which step does not call then, leaves the state as it is, and that a
reset leaves the port, are the model's reading (notes/assumptions/15.md, 16.md). -/
def Obligations.BusyBlockHoldsTheCommand : Prop :=
  (∀ (i : Instr) (s : State), s.seq ≠ .idle → exec i s = .next s) ∧
  ∀ s t : State, s.seq ≠ .idle → step s = .next t →
    s.cmdPort <+: t.cmdPort ∧ (s.mainNext → t.cmdPort = s.cmdPort)

/-- 10_state.md R38, R40, 60_exceptions.md R165: a command outside its admitted domain sets REFUSED and does nothing else. The
model's reading: RES_VALID stays (notes/assumptions/3.md). -/
def Obligations.OutOfDomainCommandOnlySetsRefused : Prop :=
  ∀ s : State, s.seq = .idle →
    (∀ e p, 253 < p.length → exec (.encodeStatus e p) s = .next { s with refused := true }) ∧
    (∀ r, 259 < r.length → exec (.validate r) s = .next { s with refused := true }) ∧
    ∀ a c ids, (255 < 2 + c.toNat * ids.length ∨ s.cfg.maxSyncIds < ids.length) →
      exec (.syncRead a c ids) s = .next { s with refused := true }

/-! ## The register bank -/

/-- 40_register_bank.md R92, 10_state.md R28: the bound predicate, the table's end included. -/
def Obligations.LegalIsTheBoundsTable : Prop :=
  ∀ (cfg : Config) (a : Nat) (v : Byte),
    legal cfg a v = true ↔
      4 ≤ a ∧ a - 4 < cfg.boundLen ∧
      (a = 4 → 10 ≤ v.toNat ∧ v.toNat ≤ 254) ∧
      (a = 5 → cfg.min5.toNat ≤ v.toNat ∧ v.toNat ≤ cfg.max5.toNat) ∧
      (a = 6 → cfg.min6.toNat ≤ v.toNat ∧ v.toNat ≤ cfg.max6.toNat)

/-- 40_register_bank.md R94: REG_READ answers exactly the stored bytes, or RangeError iff the count is 0 or the range ends past
the bank (the sum does not wrap), and writes the result port and its latches (10_state.md R38) only. -/
def Obligations.RegReadAnswersTheBytesOrRangeError : Prop :=
  ∀ (s : State) (a c : Byte), s.seq = .idle →
    ∃ t, exec (.regRead a c) s = .next t ∧ t.resValid = true ∧ t.resLog = s.resLog ++ [t.res] ∧
      (c = 0 ∨ s.cfg.bankSize < a.toNat + c.toNat → t.res = ⟨1, []⟩) ∧
      (c ≠ 0 → a.toNat + c.toNat ≤ s.cfg.bankSize →
        t.res.status = 0 ∧ t.res.data.length = c.toNat ∧
          ∀ k, k < c.toNat → t.res.data[k]? = some (s.bankAt (a.toNat + k))) ∧
      t.seq = .idle ∧ t.reg = { s.reg with opr := 0x01, a := a, c := c } ∧
      s.SameBank t ∧ s.SameOutsideBank t

/-- 40_register_bank.md R96, R97: a REG_WRITE within its bounds writes all its bytes and no other, and signals them to the
store if there is one byte at least; any other is rejected whole: no byte changes and nothing is persisted. -/
def Obligations.RegWriteIsAppliedWholeOrRejectedWhole : Prop :=
  ∀ (s : State) (a : Byte) (d : List Byte), s.seq = .idle → s.bankCanonical → d.length ≤ 255 →
    ∃ t, exec (.regWrite a d) s = .next t ∧ t.resValid = true ∧ t.resLog = s.resLog ++ [t.res] ∧
      (s.WriteInBounds a d →
        t.res = ⟨0, []⟩ ∧
        (∀ x, t.bankAt x =
          if a.toNat ≤ x ∧ x < a.toNat + d.length then d.getD (x - a.toNat) 0 else s.bankAt x) ∧
        t.persistLog = s.persistLog ++ (if d = [] then [] else [.persist a.toNat d])) ∧
      (¬ s.WriteInBounds a d → t.res = ⟨1, []⟩ ∧ s.SameBank t) ∧
      t.seq = .idle ∧ t.reg = { s.reg with opr := 0x02, a := a, data := d } ∧ s.SameOutsideBank t

/-- 70_reset_and_hazards.md R196, 40_register_bank.md R100: a write is visible to the next read. -/
def Obligations.WriteThenReadReturnsTheData : Prop :=
  ∀ (s : State) (a : Byte) (d : List Byte), s.seq = .idle → s.bankCanonical → d.length ≤ 255 → d ≠ [] →
    s.WriteInBounds a d →
    ∃ t u, exec (.regWrite a d) s = .next t ∧ exec (.regRead a (byte d.length)) t = .next u ∧
      u.resValid = true ∧ u.res = ⟨0, d⟩ ∧ u.resLog = s.resLog ++ [⟨0, []⟩, ⟨0, d⟩]

/-- 10_state.md R26, 40_register_bank.md R96: only an accepted REG_WRITE, in its own range, and reset change a byte of the
bank. -/
def Obligations.OnlyRegWriteAndResetChangeTheBank : Prop :=
  ∀ (s t : State) (x : Nat), s.bankCanonical → step s = .next t → t.bankAt x ≠ s.bankAt x →
    nextMove s = .reset ∨
      (s.mainNext ∧ s.seq = .idle ∧ ∃ bs more a d rest, s.cmdPort = bs :: more ∧
        decode bs = .ok (.regWrite a d) rest ∧ s.WriteInBounds a d ∧ a.toNat ≤ x ∧ x < a.toNat + d.length)

/-- 10_state.md R27, R46 (d): no step changes the read-only prefix. -/
def Obligations.ReadOnlyPrefixKeepsItsResetBytes : Prop :=
  ∀ s t : State, s.Inv → step s = .next t →
    t.bankAt 0 = t.cfg.modelL ∧ t.bankAt 1 = t.cfg.modelH ∧ t.bankAt 2 = t.cfg.fwVersion ∧
      t.bankAt 3 = t.cfg.bridgeId

/-! ## The packet codec -/

/-- 41_packet_codec.md R109, R117, 30_encoding.md R79: ENCODE_STATUS answers the status frame, on the result port only. That
accept latches E nowhere is the model's reading (notes/assumptions/12.md). -/
def Obligations.EncodeStatusAnswersTheFrame : Prop :=
  ∀ (s : State) (e : Byte) (p : List Byte), s.seq = .idle → p.length ≤ 253 →
    ∃ t, exec (.encodeStatus e p) s = .next t ∧ t.resValid = true ∧ t.resLog = s.resLog ++ [t.res] ∧
      t.res = ⟨0, [0xFF, 0xFF, s.cfg.bridgeId, byte (p.length + 2), e] ++ p ++
        [byte (255 - (s.cfg.bridgeId.toNat + (p.length + 2) + e.toNat + sumBytes p) % 256)]⟩ ∧
      t.seq = .idle ∧ t.reg = { s.reg with opr := 0x03, data := p } ∧
      s.SameBank t ∧ s.SameOutsideBank t

/-- 41_packet_codec.md R111, R117, 30_encoding.md R77: ENCODE_READ_CMD answers the eight-byte read command. That accept does
not latch its T is the model's reading (notes/assumptions/12.md). -/
def Obligations.EncodeReadCmdAnswersTheFrame : Prop :=
  ∀ (s : State) (i a c : Byte), s.seq = .idle →
    ∃ t, exec (.encodeReadCmd i a c) s = .next t ∧ t.resValid = true ∧ t.resLog = s.resLog ++ [t.res] ∧
      t.res = ⟨0, [0xFF, 0xFF, i, 0x04, s.cfg.cmdRead, a, c,
        byte (255 - (i.toNat + 4 + s.cfg.cmdRead.toNat + a.toNat + c.toNat) % 256)]⟩ ∧
      t.seq = .idle ∧ t.reg = { s.reg with opr := 0x04, a := a, c := c } ∧
      s.SameBank t ∧ s.SameOutsideBank t

/-- 41_packet_codec.md R106, R113, R117: VALIDATE answers 1 for six bytes or more whose sum from the id on is 255 mod 256,
and 0 for any other list. -/
def Obligations.ValidateAnswersTheChecksumTest : Prop :=
  ∀ (s : State) (r : List Byte), s.seq = .idle → r.length ≤ 259 →
    ∃ t, exec (.validate r) s = .next t ∧ t.resValid = true ∧ t.resLog = s.resLog ++ [t.res] ∧
      t.res = ⟨0, [if 6 ≤ r.length ∧ sumBytes (r.drop 2) % 256 = 255 then 1 else 0]⟩ ∧
      t.seq = .idle ∧ t.reg = { s.reg with opr := 0x05, data := r } ∧
      s.SameBank t ∧ s.SameOutsideBank t

/-- 41_packet_codec.md R114: every frame the codec builds is valid. -/
def Obligations.BuiltFrameIsValid : Prop :=
  ∀ (id code : Byte) (params : List Byte), params.length ≤ 253 → validate (mkframe id code params) = true

/-- 41_packet_codec.md R115: changing one byte of a built frame is detected exactly from offset 2 on. -/
def Obligations.OneByteChangeDetectedPastTheHeader : Prop :=
  ∀ (id code v : Byte) (params : List Byte) (j : Nat), params.length ≤ 253 → j < params.length + 6 →
    (mkframe id code params)[j]? ≠ some v →
    (2 ≤ j → validate ((mkframe id code params).set j v) = false) ∧
    (j < 2 → validate ((mkframe id code params).set j v) = true)

/-- 41_packet_codec.md R116: changes the checksum does not detect: bytes exchanged past the header, and a zero appended. -/
def Obligations.ChecksumMissesSwapsAndAppendedZero : Prop :=
  ∀ raw : List Byte, validate raw = true →
    validate (raw ++ [0]) = true ∧
    ∀ i j x y, 2 ≤ i → i < j → raw[i]? = some x → raw[j]? = some y →
      validate ((raw.set i y).set j x) = true

/-- 41_packet_codec.md R106: the validator's equivalent form by the last byte. -/
def Obligations.ValidIffLastByteIsTheChecksum : Prop :=
  ∀ (body : List Byte) (x : Byte), 5 ≤ body.length →
    (validate (body ++ [x]) = true ↔ x.toNat = 255 - sumBytes (body.drop 2) % 256)

/-! ## The bus transaction engine -/

/-- 42_bus_transaction.md R119, 10_state.md R38, R39: READ_REMOTE's accept step latches and enters the state machine. -/
def Obligations.ReadRemoteEntersTheStateMachine : Prop :=
  ∀ (s : State) (i a c : Byte), s.seq = .idle →
    ∃ t, exec (.readRemote i a c) s = .next t ∧ t.seq = .rrEnter ∧
      t.reg = { s.reg with opr := 0x06, t := i, a := a, c := c, owner := true } ∧
      t.resValid = false ∧ t.resLog = s.resLog ∧ s.SameBank t ∧ s.SameOutsideBank t

/-- 42_bus_transaction.md R121 to R125, R132: from RR_RESET twelve main-sequencer steps put exactly Drive, the eight bytes of
the read command and Listen on the bus log, reset the capture count and arm the timeout. -/
def Obligations.TransactionSendsOneReadCommand : Prop :=
  ∀ (s : State) (more : List Move), s.seq = .rrReset → s.agenda = List.replicate 12 .main ++ more →
    ∃ t, Host.Core.run Sys2Proof.core 12 s = .next t ∧ t.seq = .rrPoll ∧ t.agenda = more ∧
      t.busLog = s.busLog ++ [.drive] ++
        (mkframe s.reg.t s.cfg.cmdRead [s.reg.a, s.reg.c]).map .byte ++ [.listen] ∧
      t.busDir = .listen ∧ t.capCnt = 0 ∧ t.capBuf = s.capBuf ∧ t.reg.t0 = s.tick ∧
      t.reg.tmo = s.timeoutNow ∧ t.mode = s.mode ∧ t.hostLog = s.hostLog ∧ t.hostPend = s.hostPend ∧
      t.resLog = s.resLog ∧ s.SameBank t

/-- 42_bus_transaction.md R126: RR_POLL tests the response first, then the deadline, and with neither takes no step. -/
def Obligations.PollTestsTheResponseFirst : Prop :=
  ∀ s : State, s.seq = .rrPoll → s.mainNext →
    (s.reg.c.toNat + 6 ≤ s.capCnt →
      step s = .next { s with agenda := s.agenda.tail, seq := .rrCheck }) ∧
    (s.capCnt < s.reg.c.toNat + 6 → s.reg.tmo ≤ s.elapsed →
      step s = .next { s with
        agenda := s.agenda.tail, seq := .rrExit, reg := { s.reg with rrst := .timeout, rrData := [] } }) ∧
    (s.capCnt < s.reg.c.toNat + 6 → s.elapsed < s.reg.tmo →
      step s = .next { s with agenda := s.agenda.tail })

/-- 42_bus_transaction.md R127: RR_CHECK validates the first C+6 captured bytes and takes offsets 5 to 4+C. -/
def Obligations.CheckTakesThePayloadOfAValidResponse : Prop :=
  ∀ (s : State) (f : List Byte), s.seq = .rrCheck → s.mainNext →
    f.length = s.reg.c.toNat + 6 → f <+: s.capBuf →
    step s = .next { s with
      agenda := s.agenda.tail
      seq := .rrExit
      reg := if sumBytes (f.drop 2) % 256 = 255
        then { s.reg with rrst := .ok, rrData := (f.drop 5).take s.reg.c.toNat }
        else { s.reg with rrst := .checksumError, rrData := [] } }

/-- 42_bus_transaction.md R128: RR_EXIT gives back the mode and delivers the result in one step, or makes the slice. -/
def Obligations.ExitDeliversOrMakesTheSlice : Prop :=
  ∀ s : State, s.seq = .rrExit → s.mainNext →
    (s.reg.owner = true →
      step s = .next { s with
        agenda := s.agenda.tail
        mode := .relay
        seq := .idle
        resValid := true
        res := ⟨s.reg.rrst.code, s.reg.rrData⟩
        resLog := s.resLog ++ [⟨s.reg.rrst.code, s.reg.rrData⟩] }) ∧
    (s.reg.owner = false →
      step s = .next { s with
        agenda := s.agenda.tail, seq := .srEmit,
        reg := { s.reg with
          j := 0
          slice := if s.reg.rrst = .ok then s.reg.rrData else List.replicate s.reg.c.toNat 0xFF } })

/-- 42_bus_transaction.md R129: the elapsed count is the ticks since RR_ARM, modulo the counter's range, so a wrap of TICK
does not break it. -/
def Obligations.ElapsedCountsTicksThroughAWrap : Prop :=
  ∀ (s : State) (n : Nat), s.tick < 2 ^ s.cfg.tickW → s.reg.t0 = s.tick →
    (tickEvent^[n] s).elapsed = n % 2 ^ s.cfg.tickW

/-- 42_bus_transaction.md R130: with C + 6 above the capacity the response never completes. -/
def Obligations.OverCapacityReadNeverCompletes : Prop :=
  ∀ s t : State, s.Inv → s.seq = .rrPoll → s.cfg.cap < s.reg.c.toNat + 6 → step s = .next t →
    t.seq ≠ .rrCheck ∧ (t.seq = .rrExit → t.reg.rrst = .timeout)

/-- 42_bus_transaction.md R126, R128, 60_exceptions.md R183: a READ_REMOTE to a silent device ends in Timeout after the ticks
left, the bridge back in Relay. -/
def Obligations.SilentDeviceEndsInTimeout : Prop :=
  ∀ s : State, s.Inv → s.seq = .rrPoll → s.reg.owner = true → s.agenda = [] →
    s.capCnt < s.reg.c.toNat + 6 → s.elapsed < s.reg.tmo →
    ∃ t, Host.Core.run Sys2Proof.core (s.reg.tmo - s.elapsed + 2) s = .next t ∧
      t.seq = .idle ∧ t.mode = .relay ∧ t.resValid = true ∧ t.res = ⟨2, []⟩ ∧ t.resLog = s.resLog ++ [⟨2, []⟩] ∧
      t.hostLog = s.hostLog ∧ t.busLog = s.busLog ∧ s.SameBank t

/-- 42_bus_transaction.md R119 to R128, R132 to R134: a whole READ_REMOTE whose device answers C+6 bytes f before the poll:
one read command on the bus, nothing on the host stream, and the payload of f or ChecksumError as the one result. The
schedule is one agenda (notes/assumptions/1.md). -/
def Obligations.AnsweredReadRemoteRunsEndToEnd : Prop :=
  ∀ (s : State) (i a c : Byte) (f : List Byte) (more : List Move),
    s.Inv → s.seq = .idle → s.cmdPort = [] → f.length = c.toNat + 6 → f.length ≤ s.cfg.cap →
    s.agenda = [.present (encode (.readRemote i a c))] ++ List.replicate 14 .main ++ f.map .arrive ++
      List.replicate 3 .main ++ more →
    ∃ t, Host.Core.run Sys2Proof.core (1 + 14 + f.length + 3) s = .next t ∧
      t.seq = .idle ∧ t.mode = .relay ∧ t.resValid = true ∧ t.agenda = more ∧
      t.res = (if sumBytes (f.drop 2) % 256 = 255 then ⟨0, (f.drop 5).take c.toNat⟩ else ⟨3, []⟩) ∧
      t.resLog = s.resLog ++ [t.res] ∧
      t.busLog = s.busLog ++ [.drive] ++ (mkframe i s.cfg.cmdRead [a, c]).map .byte ++ [.listen] ∧
      t.hostLog = s.hostLog ∧ s.SameBank t

/-! ## The bridge mode and the bus-receive path -/

/-- 43_bridge_mode.md R135, R136, and R139, the table the spec derives from them: the whole mode table. -/
def Obligations.ModeChangesOnlyAsTheTableSays : Prop :=
  ∀ s t : State, step s = .next t →
    t.mode =
      if nextMove s = .reset then .relay
      else if nextMove s = .main ∧ ((s.seq = .rrEnter ∧ s.reg.owner = true) ∨ s.seq = .srEnter) then .divert
      else if nextMove s = .main ∧ ((s.seq = .rrExit ∧ s.reg.owner = true) ∨ s.seq = .srExit) then .relay
      else s.mode

/-- 43_bridge_mode.md R141, R143, 44_sync_read.md R147: in Relay an arriving byte goes to the host, with a flush when the
threshold is reached, and changes nothing in the capture buffer. -/
def Obligations.RelayForwardsTheByte : Prop :=
  ∀ (s : State) (b : Byte), s.mode = .relay → nextMove s = .arrive b →
    step s = .next { s with
      agenda := s.agenda.tail
      hostLog := if s.cfg.flushThreshold ≤ s.hostPend + 1
        then s.hostLog ++ [.byte b, .flush] else s.hostLog ++ [.byte b]
      hostPend := if s.cfg.flushThreshold ≤ s.hostPend + 1 then 0 else s.hostPend + 1 }

/-- 43_bridge_mode.md R142: in Divert an arriving byte is appended up to the capacity, and dropped without a trace past it. -/
def Obligations.DivertCapturesUpToTheCapacity : Prop :=
  ∀ (s : State) (b : Byte), s.mode = .divert → nextMove s = .arrive b →
    (s.capCnt < s.cfg.cap →
      step s = .next { s with
        agenda := s.agenda.tail, capBuf := s.capBuf.set s.capCnt b, capCnt := s.capCnt + 1 }) ∧
    (s.cfg.cap ≤ s.capCnt → step s = .next { s with agenda := s.agenda.tail })

/-- 20_memory.md R64, R65, 43_bridge_mode.md R144: the capture buffer's discipline: an arrival in Divert appends, RR_RESET
and reset clear the count, no other step writes it, and captured bytes stay. -/
def Obligations.CaptureBufferIsAppendOnly : Prop :=
  ∀ s t : State, step s = .next t →
    (t.capCnt = 0 ∧ (nextMove s = .reset ∨ (s.mainNext ∧ s.seq = .rrReset)) ∨
      t.capCnt = s.capCnt ∨ (t.capCnt = s.capCnt + 1 ∧ s.mode = .divert ∧ ∃ b, nextMove s = .arrive b)) ∧
    (nextMove s ≠ .reset → ∀ i, i ≠ s.capCnt → t.capBuf[i]? = s.capBuf[i]?)

/-- 43_bridge_mode.md R145: the host stream's writers are never at odds: an arrival writes it in Relay only, the main
sequencer in a SYNC_READ, in Divert, only, and reset puts its marker. -/
def Obligations.HostStreamHasOneWriterAtATime : Prop :=
  ∀ s t : State, s.Inv → step s = .next t → t.hostLog ≠ s.hostLog →
    (s.mode = .relay ∧ ∃ b, nextMove s = .arrive b) ∨
      (s.mode = .divert ∧ s.mainNext ∧
        (s.seq = .srHdr ∨ s.seq = .srEmit ∨ s.seq = .srCk ∨ s.seq = .srFlush)) ∨
      nextMove s = .reset

/-! ## The sync-read engine -/

/-- 44_sync_read.md R148, 10_state.md R38, R39: SYNC_READ's accept step latches and enters the batch, without the mode. -/
def Obligations.SyncReadEntersTheBatch : Prop :=
  ∀ (s : State) (a c : Byte) (ids : List Byte), s.seq = .idle →
    ids.length ≤ 255 → ids.length ≤ s.cfg.maxSyncIds → 2 + c.toNat * ids.length ≤ 255 →
    ∃ t, exec (.syncRead a c ids) s = .next t ∧ t.seq = .srEnter ∧
      t.reg = { s.reg with opr := 0x07, a := a, c := c, ids := ids, owner := false } ∧
      t.resValid = false ∧ t.resLog = s.resLog ∧ s.SameBank t ∧ s.SameOutsideBank t

/-- 44_sync_read.md R147, R149 to R152, R155, R158: each step of a batch outside its transactions and its end: the mode and
the length, the header bytes, the ids in the given order by K, the slice bytes, each byte sent with its flush marker where
the threshold is reached, and the mode given back with the result in one step. -/
def Obligations.BatchVisitsDevicesInOrder : Prop :=
  ∀ s : State, s.mainNext →
    (s.seq = .srEnter →
      step s = .next { s with
        agenda := s.agenda.tail, mode := .divert, seq := .srHdr,
        reg := { s.reg with l := byte (2 + s.reg.c.toNat * s.reg.ids.length), j := 0, sum := 0 } }) ∧
    (∀ b, s.seq = .srHdr → [0xFF, 0xFF, s.cfg.bridgeId, s.reg.l, 0x00][s.reg.j]? = some b →
      step s = .next { s with
        agenda := s.agenda.tail
        hostLog := s.hostLog ++
          if s.cfg.flushThreshold ≤ s.hostPend + 1 then [.byte b, .flush] else [.byte b]
        hostPend := if s.cfg.flushThreshold ≤ s.hostPend + 1 then 0 else s.hostPend + 1
        seq := if s.reg.j = 4 then .srNext else .srHdr
        reg := { s.reg with
          sum := if 2 ≤ s.reg.j then s.reg.sum + b else s.reg.sum
          j := s.reg.j + 1
          k := if s.reg.j = 4 then 0 else s.reg.k } }) ∧
    (∀ id, s.seq = .srNext → s.reg.ids[s.reg.k]? = some id →
      step s = .next { s with agenda := s.agenda.tail, seq := .rrReset, reg := { s.reg with t := id } }) ∧
    (s.seq = .srNext → s.reg.ids.length ≤ s.reg.k →
      step s = .next { s with agenda := s.agenda.tail, seq := .srCk }) ∧
    (∀ b, s.seq = .srEmit → s.reg.j < s.reg.c.toNat → s.reg.slice[s.reg.j]? = some b →
      step s = .next { s with
        agenda := s.agenda.tail
        hostLog := s.hostLog ++
          if s.cfg.flushThreshold ≤ s.hostPend + 1 then [.byte b, .flush] else [.byte b]
        hostPend := if s.cfg.flushThreshold ≤ s.hostPend + 1 then 0 else s.hostPend + 1
        reg := { s.reg with sum := s.reg.sum + b, j := s.reg.j + 1 } }) ∧
    (s.seq = .srEmit → s.reg.c.toNat ≤ s.reg.j →
      step s = .next { s with agenda := s.agenda.tail, seq := .srNext, reg := { s.reg with k := s.reg.k + 1 } }) ∧
    (s.seq = .srExit →
      step s = .next { s with
        agenda := s.agenda.tail, mode := .relay, seq := .idle, resValid := true, res := ⟨0, []⟩
        resLog := s.resLog ++ [⟨0, []⟩] })

/-- 44_sync_read.md R149 to R154: from SR_ENTER's step on, what a batch has sent and its running sum, at every step that is
not a reset, whatever the devices and the schedule do. -/
def Obligations.BatchKeepsItsStreamAndSum : Prop :=
  (∀ s t : State, s.Inv → s.seq = .srEnter → s.mainNext → step s = .next t →
    t.InBatch ∧ t.Streamed s.hostLog []) ∧
  ∀ (base : List HostEvent) (s t : State) (slices : List Byte),
    s.Inv → s.InBatch → s.Streamed base slices → nextMove s ≠ .reset → ¬(s.seq = .srExit ∧ s.mainNext) →
    step s = .next t →
    t.InBatch ∧ t.reg.c = s.reg.c ∧ t.reg.ids = s.reg.ids ∧ ∃ slices', slices <+: slices' ∧ t.Streamed base slices'

/-- 44_sync_read.md R156, R157: a SYNC_READ not cut by a reset sends the host exactly one status frame, over C times n slice
bytes, from SR_ENTER's step to SR_EXIT, whatever the devices and the schedule do, and the frame is valid. -/
def Obligations.SyncReadStreamsOneStatusFrame : Prop :=
  ∀ (s t : State) (n : Nat), s.Inv → s.seq = .srEnter → s.mainNext → (∀ m ∈ s.agenda, m ≠ .reset) →
    (∀ k, k < n → ∃ u, Host.Core.run Sys2Proof.core k s = .next u ∧ u.seq ≠ .idle) →
    Host.Core.run Sys2Proof.core n s = .next t → t.seq = .srExit →
    ∃ slices : List Byte, slices.length = s.reg.c.toNat * s.reg.ids.length ∧
      hostBytes t.hostLog = hostBytes s.hostLog ++ mkframe s.cfg.bridgeId 0x00 slices ∧
      validate (mkframe s.cfg.bridgeId 0x00 slices) = true

/-- 42_bus_transaction.md R126, R128, 44_sync_read.md R149 to R155, and R159, which the spec derives: on a silent bus a
SYNC_READ ends, with a frame of sentinels of the declared length, result OK and the bridge back in Relay. The schedule is the
model's (notes/assumptions/1.md). -/
def Obligations.SilentBusGivesAFrameOfSentinels : Prop :=
  ∀ s : State, s.Inv → s.seq = .srEnter → s.agenda = [] →
    ∃ n t, Host.Core.run Sys2Proof.core n s = .next t ∧ t.seq = .idle ∧ t.mode = .relay ∧
      t.resValid = true ∧ t.res = ⟨0, []⟩ ∧ t.resLog = s.resLog ++ [⟨0, []⟩] ∧
      hostBytes t.hostLog = hostBytes s.hostLog ++
        mkframe s.cfg.bridgeId 0x00 (List.replicate (s.reg.c.toNat * s.reg.ids.length) 0xFF)

/-- 44_sync_read.md R153, R154: the checksum byte, and the flush of what is still pending, by two main-sequencer steps from
SR_CK. -/
def Obligations.BatchEndsWithChecksumAndFlush : Prop :=
  ∀ (s : State) (more : List Move), s.seq = .srCk → s.agenda = [.main, .main] ++ more →
    ∃ t, Host.Core.run Sys2Proof.core 2 s = .next t ∧ t.seq = .srExit ∧ t.hostPend = 0 ∧ t.mode = s.mode ∧
      t.hostLog = s.hostLog ++ [.byte (byte (255 - s.reg.sum.toNat)), .flush]

/-! ## Events -/

/-- 70_reset_and_hazards.md R184, R185: a reset event, at any point of a run. What the rule calls unspecified is not stated.
The model's reading: the command port and the sequence of results stay, and every reset event loads the same BANK_INIT_RW
(notes/assumptions/16.md, 25.md, 29.md). -/
def Obligations.ResetRestoresTheResetValues : Prop :=
  ∀ s : State, nextMove s = .reset →
    ∃ t, step s = .next t ∧ t.mode = .relay ∧ t.capCnt = 0 ∧ t.busDir = .listen ∧ t.hostPend = 0 ∧
      t.seq = .idle ∧ t.resValid = false ∧ (∀ x, t.bankAt x = s.cfg.resetByte x) ∧
      t.tick < 2 ^ s.cfg.tickW ∧ t.refused = s.refused ∧ t.hostLog = s.hostLog ++ [.reset] ∧
      t.busLog = s.busLog ++ [.reset] ∧ t.persistLog = s.persistLog ++ [.reset] ∧
      t.resLog = s.resLog ∧ t.cfg = s.cfg ∧ t.cmdPort = s.cmdPort

/-- 10_state.md R32: a tick advances TICK modulo its range, with no other effect, and nothing else but reset writes it. -/
def Obligations.TickAdvancesTheCounterAlone : Prop :=
  (∀ s : State, nextMove s = .tick →
    step s = .next { s with agenda := s.agenda.tail, tick := (s.tick + 1) % 2 ^ s.cfg.tickW }) ∧
  ∀ s t : State, nextMove s ≠ .tick → nextMove s ≠ .reset → step s = .next t → t.tick = s.tick

/-- 10_state.md R36, R38, 70_reset_and_hazards.md R188: a result stays as it is until
the next command is accepted or a reset. -/
def Obligations.ResultStaysUntilTheNextCommand : Prop :=
  ∀ s t : State, s.Inv → step s = .next t → s.resValid = true → (t.resValid = false ∨ t.res ≠ s.res) →
    nextMove s = .reset ∨
      (s.mainNext ∧ s.seq = .idle ∧ ∃ bs more i rest, s.cmdPort = bs :: more ∧ decode bs = .ok i rest ∧
        admitted s.cfg i = true)

/-- 20_memory.md R64, 43_bridge_mode.md R141, R144: a byte's arrival, a tick and the presenting of a command touch nothing of
the operation under way: not the mode, the bank, the sequencer, its registers or the result port. A sequence presented waits
behind what is already presented, and no arrival or tick touches the port; that more than one waits is the model's reading
(notes/assumptions/2.md). -/
def Obligations.EventsLeaveTheOperationAlone : Prop :=
  ∀ s : State, (∃ b, nextMove s = .arrive b) ∨ nextMove s = .tick ∨ (∃ bs, nextMove s = .present bs) →
    ∃ t, step s = .next t ∧ t.mode = s.mode ∧ t.seq = s.seq ∧ t.reg = s.reg ∧ t.res = s.res ∧
      t.resValid = s.resValid ∧ t.busDir = s.busDir ∧ t.refused = s.refused ∧ t.busLog = s.busLog ∧
      t.resLog = s.resLog ∧ s.SameBank t ∧
      (∀ bs, nextMove s = .present bs → t.cmdPort = s.cmdPort ++ [bs]) ∧
      ((∃ b, nextMove s = .arrive b) ∨ nextMove s = .tick → t.cmdPort = s.cmdPort)

/-! ## Reset and the whole machine -/

/-- 10_state.md R45, R27: the state at power-on, of every configuration, in what the spec gives it; the block at hand has
some valid configuration (notes/assumptions/4.md). -/
def Obligations.PowerOnHasTheResetValues : Prop :=
  State.reset = State.resetWith Config.device ∧ Config.device.valid = true ∧
  ∀ c : Config, c.valid = true →
    State.configure c = .next (State.resetWith c) ∧
    (State.resetWith c).bankAt 0 = c.modelL ∧ (State.resetWith c).bankAt 1 = c.modelH ∧
    (State.resetWith c).bankAt 2 = c.fwVersion ∧ (State.resetWith c).bankAt 3 = c.bridgeId ∧
    (∀ k, 4 + k < c.bankSize → c.bankInitRW[k]? = some ((State.resetWith c).bankAt (4 + k))) ∧
    (State.resetWith c).mode = .relay ∧ (State.resetWith c).capCnt = 0 ∧
    (State.resetWith c).busDir = .listen ∧ (State.resetWith c).hostPend = 0 ∧
    (State.resetWith c).seq = .idle ∧ (State.resetWith c).resValid = false ∧
    (State.resetWith c).refused = false ∧ (State.resetWith c).hostLog = [] ∧
    (State.resetWith c).busLog = [] ∧ (State.resetWith c).persistLog = [] ∧ (State.resetWith c).resLog = []

/-- 00_scope.md R9, R10: parameters are refused at configuration time iff they break a constraint of R9, written out here;
any other choice is configured. The last constraint is `1 <= timeout(BANK) < 2^TICK_W`: of a constant, of a bank byte's reset
value and every legal one, and of a free function by construction (notes/assumptions/5.md). -/
def Obligations.BadConfigurationIsRefused : Prop :=
  ∀ c : Config,
    (State.configure c = .next (State.resetWith c) ∨ State.configure c = .refused .badConfiguration) ∧
    (State.configure c = .refused .badConfiguration ↔
      ¬ (7 ≤ c.bankSize ∧ c.bankSize ≤ 256 ∧ c.boundLen = c.bankSize - 4 ∧
        c.min5.toNat ≤ c.max5.toNat ∧ c.min6.toNat ≤ c.max6.toNat ∧
        c.bridgeId.toNat ≤ 253 ∧ 253 < c.broadcastId.toNat ∧ c.errRange.toNat ≠ 0 ∧
        6 ≤ c.cap ∧ 1 ≤ c.tickW ∧ 1 ≤ c.flushThreshold ∧ 1 ≤ c.maxSyncIds ∧
        c.bankInitRW.length = c.bankSize - 4 ∧
        (∀ n, c.timeout = .constant n → 1 ≤ n ∧ n < 2 ^ c.tickW) ∧
        (∀ a, c.timeout = .bankByte a →
          a < c.bankSize ∧ 1 ≤ (c.resetByte a).toNat ∧ (c.resetByte a).toNat < 2 ^ c.tickW ∧
            ∀ v, legal c a v = true → 1 ≤ v.toNat ∧ v.toNat < 2 ^ c.tickW)))

/-- 10_state.md R46: the invariant holds at power-on, of every valid configuration and of the block at hand. -/
def Obligations.InvariantHoldsAtReset : Prop :=
  (∀ c : Config, c.valid = true → (State.resetWith c).Inv) ∧ State.reset.Inv

/-- 10_state.md R46, R35, R36: every step keeps the invariant. -/
def Obligations.EveryStepKeepsTheInvariant : Prop :=
  ∀ s t : State, s.Inv → step s = .next t → t.Inv

/-- 10_state.md R46: what the invariant says in the rule's own terms, (a) to (e), and that a result is there in IDLE
only, the last of the sequence of results (00_scope.md R23, notes/assumptions/25.md). -/
def Obligations.InvariantGivesTheRulesClauses : Prop :=
  ∀ s : State, s.Inv →
    (s.seq = .idle → s.mode = .relay) ∧
    (s.mode = .divert →
      s.seq ≠ .idle ∧ ¬(s.seq = .rrEnter ∧ s.reg.owner = true) ∧ s.seq ≠ .srEnter) ∧
    s.capCnt ≤ s.cfg.cap ∧
    (∀ a, a < 4 → s.bankAt a = s.cfg.resetByte a) ∧
    s.hostPend < s.cfg.flushThreshold ∧
    (s.resValid = true → s.seq = .idle ∧ s.resLog.getLast? = some s.res)

/-- The model never stops in a state that meets the invariant: no fault and no refusal (60_exceptions.md R171: a failure is a
result). The fault it rules out is the model's own, notes/assumptions/14.md. -/
def Obligations.InvariantStatesNeverStop : Prop :=
  ∀ s : State, s.Inv → ∃ t, step s = .next t

/-- 43_bridge_mode.md R136, 60_exceptions.md R172, R183: on the model's schedule, once its agenda is spent, every operation
ends: the machine comes to IDLE in Relay. The schedule is notes/assumptions/1.md. -/
def Obligations.EveryOperationEnds : Prop :=
  ∀ s : State, s.Inv →
    ∃ n t, Host.Core.run Sys2Proof.core n s = .next t ∧ t.agenda = [] ∧ t.seq = .idle ∧ t.mode = .relay

/-- 60_exceptions.md R183, R136, R172: in every infinite run that is fair, whatever the bus, the dispatcher and the order of the
moves, every operation ends: from every time on there is one in IDLE and Relay, and an operation under way that no reset cuts
has then delivered its result. -/
def Obligations.EveryFairRunEndsEveryOperation : Prop :=
  ∀ (σ : Nat → Move) (ρ : Nat → State), (ρ 0).Inv → IsRun σ ρ → Fair σ ρ →
    ∀ n, ∃ m, n ≤ m ∧ (ρ m).seq = .idle ∧ (ρ m).mode = .relay ∧
      ((ρ n).seq ≠ .idle → (∀ k, n ≤ k → k < m → σ k ≠ .reset) → (ρ m).resValid = true)

/-- 10_state.md R25, R44: the first `n` moves of a run under any schedule are the run of the machine whose agenda they are
(notes/assumptions/1.md), so no order of the agents' moves is left out. -/
def Obligations.EveryScheduleIsAnAgenda : Prop :=
  ∀ (σ : Nat → Move) (ρ : Nat → State), IsRun σ ρ →
    ∀ n, Host.Core.run Sys2Proof.core n { ρ 0 with agenda := (List.range n).map σ } = .next { ρ n with agenda := [] }

/-- The bank's list is kept in canonical form by every step, in every state of that form (notes/assumptions/18.md). -/
def Obligations.EveryStepKeepsTheBankCanonical : Prop :=
  ∀ s t : State, s.bankCanonical → step s = .next t → t.bankCanonical

/-- 10_state.md R28, 20_memory.md R68: no step changes the configuration. -/
def Obligations.NoStepChangesTheConfiguration : Prop :=
  ∀ s t : State, step s = .next t → t.cfg = s.cfg

/-- 10_state.md R41, 42_bus_transaction.md R122 to R124, 40_register_bank.md R97, 00_scope.md R23: the logs are append-only, in
every step, a reset's included (where HOSTLOG grows is HostStreamHasOneWriterAtATime's); the bus log grows in RR_DRIVE, RR_TX,
RR_LISTEN and reset only, the persistence log in a REG_WRITE of at least one byte within its bounds and reset only, and the
sequence of results by the one the port then shows. That a reset neither marks nor clears the sequence of results is the
model's choice (notes/assumptions/25.md). -/
def Obligations.LogsAreAppendOnly : Prop :=
  ∀ s t : State, step s = .next t →
    s.hostLog <+: t.hostLog ∧
    (t.busLog = s.busLog ∨
      (nextMove s = .reset ∧ t.busLog = s.busLog ++ [.reset]) ∨
      (s.mainNext ∧ s.seq = .rrDrive ∧ t.busLog = s.busLog ++ [.drive]) ∨
      (s.mainNext ∧ s.seq = .rrTx ∧ ∃ b, s.reg.txBuf[s.reg.i]? = some b ∧ t.busLog = s.busLog ++ [.byte b]) ∨
      (s.mainNext ∧ s.seq = .rrListen ∧ t.busLog = s.busLog ++ [.listen])) ∧
    (t.persistLog = s.persistLog ∨
      (nextMove s = .reset ∧ t.persistLog = s.persistLog ++ [.reset]) ∨
      (s.mainNext ∧ s.seq = .idle ∧ ∃ bs more a d rest, s.cmdPort = bs :: more ∧
        decode bs = .ok (.regWrite a d) rest ∧ d ≠ [] ∧ s.WriteInBounds a d ∧
        t.persistLog = s.persistLog ++ [.persist a.toNat d])) ∧
    ((t.resLog = s.resLog ∧ (s.resValid = false → t.resValid = false)) ∨
      (t.resLog = s.resLog ++ [t.res] ∧ t.resValid = true ∧ s.mainNext))

/-- 10_state.md R40: nothing clears REFUSED, and only a refused command sets it. -/
def Obligations.RefusedIsNeverCleared : Prop :=
  ∀ s t : State, step s = .next t →
    (s.refused = true → t.refused = true) ∧
    (t.refused ≠ s.refused → s.mainNext ∧ s.seq = .idle ∧ ∃ bs more, s.cmdPort = bs :: more ∧
      ((∃ why, decode bs = .rejected why) ∨ ∃ i rest, decode bs = .ok i rest ∧ admitted s.cfg i = false))

/-- 10_state.md R31: BUSDIR is the last direction asked for, written in RR_DRIVE, RR_LISTEN and reset only. -/
def Obligations.BusDirectionFollowsTheEngine : Prop :=
  ∀ s t : State, step s = .next t →
    t.busDir =
      if nextMove s = .reset then .listen
      else if nextMove s = .main ∧ s.seq = .rrDrive then .drive
      else if nextMove s = .main ∧ s.seq = .rrListen then .listen
      else s.busDir

/-- 10_state.md R36, 60_exceptions.md R161, R167: a step that leaves a valid result it did not find writes one of the four
codes, and Timeout and ChecksumError are READ_REMOTE's only. -/
def Obligations.BusErrorsComeFromReadRemoteOnly : Prop :=
  ∀ s t : State, s.Inv → step s = .next t → t.resValid = true → (s.resValid = false ∨ t.res ≠ s.res) →
    s.mainNext ∧
    (t.res.status = 0 ∨ t.res.status = 1 ∨ t.res.status = 2 ∨ t.res.status = 3) ∧
    ((t.res.status = 2 ∨ t.res.status = 3) → s.seq = .rrExit ∧ s.reg.owner = true ∧ t.res.data = []) ∧
    (t.res.status = 1 → s.seq = .idle ∧ t.res.data = [])
end

