-- ==== Sys2Proof/Laws/State.lean ====
section
/-! SUPPORT. The fields of a state after each named update, one lemma for each field and update. -/

namespace Sys2Proof.Machine

/-! ## goto -/

@[simp] theorem State.goto_cfg (s : State) (q : Seq) : (s.goto q).cfg = s.cfg := rfl
@[simp] theorem State.goto_bank (s : State) (q : Seq) : (s.goto q).bank = s.bank := rfl
@[simp] theorem State.goto_mode (s : State) (q : Seq) : (s.goto q).mode = s.mode := rfl
@[simp] theorem State.goto_capBuf (s : State) (q : Seq) : (s.goto q).capBuf = s.capBuf := rfl
@[simp] theorem State.goto_capCnt (s : State) (q : Seq) : (s.goto q).capCnt = s.capCnt := rfl
@[simp] theorem State.goto_busDir (s : State) (q : Seq) : (s.goto q).busDir = s.busDir := rfl
@[simp] theorem State.goto_tick (s : State) (q : Seq) : (s.goto q).tick = s.tick := rfl
@[simp] theorem State.goto_hostPend (s : State) (q : Seq) : (s.goto q).hostPend = s.hostPend := rfl
@[simp] theorem State.goto_seq (s : State) (q : Seq) : (s.goto q).seq = q := rfl
@[simp] theorem State.goto_reg (s : State) (q : Seq) : (s.goto q).reg = s.reg := rfl
@[simp] theorem State.goto_res (s : State) (q : Seq) : (s.goto q).res = s.res := rfl
@[simp] theorem State.goto_resValid (s : State) (q : Seq) : (s.goto q).resValid = s.resValid := rfl
@[simp] theorem State.goto_refused (s : State) (q : Seq) : (s.goto q).refused = s.refused := rfl
@[simp] theorem State.goto_hostLog (s : State) (q : Seq) : (s.goto q).hostLog = s.hostLog := rfl
@[simp] theorem State.goto_busLog (s : State) (q : Seq) : (s.goto q).busLog = s.busLog := rfl
@[simp] theorem State.goto_persistLog (s : State) (q : Seq) : (s.goto q).persistLog = s.persistLog := rfl
@[simp] theorem State.goto_resLog (s : State) (q : Seq) : (s.goto q).resLog = s.resLog := rfl
@[simp] theorem State.goto_cmdPort (s : State) (q : Seq) : (s.goto q).cmdPort = s.cmdPort := rfl
@[simp] theorem State.goto_agenda (s : State) (q : Seq) : (s.goto q).agenda = s.agenda := rfl
@[simp] theorem State.goto_draws (s : State) (q : Seq) : (s.goto q).draws = s.draws := rfl

/-! ## setMode -/

@[simp] theorem State.setMode_cfg (s : State) (m : Mode) : (s.setMode m).cfg = s.cfg := rfl
@[simp] theorem State.setMode_bank (s : State) (m : Mode) : (s.setMode m).bank = s.bank := rfl
@[simp] theorem State.setMode_mode (s : State) (m : Mode) : (s.setMode m).mode = m := rfl
@[simp] theorem State.setMode_capBuf (s : State) (m : Mode) : (s.setMode m).capBuf = s.capBuf := rfl
@[simp] theorem State.setMode_capCnt (s : State) (m : Mode) : (s.setMode m).capCnt = s.capCnt := rfl
@[simp] theorem State.setMode_busDir (s : State) (m : Mode) : (s.setMode m).busDir = s.busDir := rfl
@[simp] theorem State.setMode_tick (s : State) (m : Mode) : (s.setMode m).tick = s.tick := rfl
@[simp] theorem State.setMode_hostPend (s : State) (m : Mode) : (s.setMode m).hostPend = s.hostPend := rfl
@[simp] theorem State.setMode_seq (s : State) (m : Mode) : (s.setMode m).seq = s.seq := rfl
@[simp] theorem State.setMode_reg (s : State) (m : Mode) : (s.setMode m).reg = s.reg := rfl
@[simp] theorem State.setMode_res (s : State) (m : Mode) : (s.setMode m).res = s.res := rfl
@[simp] theorem State.setMode_resValid (s : State) (m : Mode) : (s.setMode m).resValid = s.resValid := rfl
@[simp] theorem State.setMode_refused (s : State) (m : Mode) : (s.setMode m).refused = s.refused := rfl
@[simp] theorem State.setMode_hostLog (s : State) (m : Mode) : (s.setMode m).hostLog = s.hostLog := rfl
@[simp] theorem State.setMode_busLog (s : State) (m : Mode) : (s.setMode m).busLog = s.busLog := rfl
@[simp] theorem State.setMode_persistLog (s : State) (m : Mode) : (s.setMode m).persistLog = s.persistLog := rfl
@[simp] theorem State.setMode_resLog (s : State) (m : Mode) : (s.setMode m).resLog = s.resLog := rfl
@[simp] theorem State.setMode_cmdPort (s : State) (m : Mode) : (s.setMode m).cmdPort = s.cmdPort := rfl
@[simp] theorem State.setMode_agenda (s : State) (m : Mode) : (s.setMode m).agenda = s.agenda := rfl
@[simp] theorem State.setMode_draws (s : State) (m : Mode) : (s.setMode m).draws = s.draws := rfl

/-! ## setReg -/

@[simp] theorem State.setReg_cfg (s : State) (r : Working) : (s.setReg r).cfg = s.cfg := rfl
@[simp] theorem State.setReg_bank (s : State) (r : Working) : (s.setReg r).bank = s.bank := rfl
@[simp] theorem State.setReg_mode (s : State) (r : Working) : (s.setReg r).mode = s.mode := rfl
@[simp] theorem State.setReg_capBuf (s : State) (r : Working) : (s.setReg r).capBuf = s.capBuf := rfl
@[simp] theorem State.setReg_capCnt (s : State) (r : Working) : (s.setReg r).capCnt = s.capCnt := rfl
@[simp] theorem State.setReg_busDir (s : State) (r : Working) : (s.setReg r).busDir = s.busDir := rfl
@[simp] theorem State.setReg_tick (s : State) (r : Working) : (s.setReg r).tick = s.tick := rfl
@[simp] theorem State.setReg_hostPend (s : State) (r : Working) : (s.setReg r).hostPend = s.hostPend := rfl
@[simp] theorem State.setReg_seq (s : State) (r : Working) : (s.setReg r).seq = s.seq := rfl
@[simp] theorem State.setReg_reg (s : State) (r : Working) : (s.setReg r).reg = r := rfl
@[simp] theorem State.setReg_res (s : State) (r : Working) : (s.setReg r).res = s.res := rfl
@[simp] theorem State.setReg_resValid (s : State) (r : Working) : (s.setReg r).resValid = s.resValid := rfl
@[simp] theorem State.setReg_refused (s : State) (r : Working) : (s.setReg r).refused = s.refused := rfl
@[simp] theorem State.setReg_hostLog (s : State) (r : Working) : (s.setReg r).hostLog = s.hostLog := rfl
@[simp] theorem State.setReg_busLog (s : State) (r : Working) : (s.setReg r).busLog = s.busLog := rfl
@[simp] theorem State.setReg_persistLog (s : State) (r : Working) : (s.setReg r).persistLog = s.persistLog := rfl
@[simp] theorem State.setReg_resLog (s : State) (r : Working) : (s.setReg r).resLog = s.resLog := rfl
@[simp] theorem State.setReg_cmdPort (s : State) (r : Working) : (s.setReg r).cmdPort = s.cmdPort := rfl
@[simp] theorem State.setReg_agenda (s : State) (r : Working) : (s.setReg r).agenda = s.agenda := rfl
@[simp] theorem State.setReg_draws (s : State) (r : Working) : (s.setReg r).draws = s.draws := rfl

/-! ## setBankAt -/

@[simp] theorem State.setBankAt_cfg (s : State) (a : Nat) (v : Byte) : (s.setBankAt a v).cfg = s.cfg := rfl
@[simp] theorem State.setBankAt_bank (s : State) (a : Nat) (v : Byte) : (s.setBankAt a v).bank = Memory.write s.cfg.resetByte s.bank a v := rfl
@[simp] theorem State.setBankAt_mode (s : State) (a : Nat) (v : Byte) : (s.setBankAt a v).mode = s.mode := rfl
@[simp] theorem State.setBankAt_capBuf (s : State) (a : Nat) (v : Byte) : (s.setBankAt a v).capBuf = s.capBuf := rfl
@[simp] theorem State.setBankAt_capCnt (s : State) (a : Nat) (v : Byte) : (s.setBankAt a v).capCnt = s.capCnt := rfl
@[simp] theorem State.setBankAt_busDir (s : State) (a : Nat) (v : Byte) : (s.setBankAt a v).busDir = s.busDir := rfl
@[simp] theorem State.setBankAt_tick (s : State) (a : Nat) (v : Byte) : (s.setBankAt a v).tick = s.tick := rfl
@[simp] theorem State.setBankAt_hostPend (s : State) (a : Nat) (v : Byte) : (s.setBankAt a v).hostPend = s.hostPend := rfl
@[simp] theorem State.setBankAt_seq (s : State) (a : Nat) (v : Byte) : (s.setBankAt a v).seq = s.seq := rfl
@[simp] theorem State.setBankAt_reg (s : State) (a : Nat) (v : Byte) : (s.setBankAt a v).reg = s.reg := rfl
@[simp] theorem State.setBankAt_res (s : State) (a : Nat) (v : Byte) : (s.setBankAt a v).res = s.res := rfl
@[simp] theorem State.setBankAt_resValid (s : State) (a : Nat) (v : Byte) : (s.setBankAt a v).resValid = s.resValid := rfl
@[simp] theorem State.setBankAt_refused (s : State) (a : Nat) (v : Byte) : (s.setBankAt a v).refused = s.refused := rfl
@[simp] theorem State.setBankAt_hostLog (s : State) (a : Nat) (v : Byte) : (s.setBankAt a v).hostLog = s.hostLog := rfl
@[simp] theorem State.setBankAt_busLog (s : State) (a : Nat) (v : Byte) : (s.setBankAt a v).busLog = s.busLog := rfl
@[simp] theorem State.setBankAt_persistLog (s : State) (a : Nat) (v : Byte) : (s.setBankAt a v).persistLog = s.persistLog := rfl
@[simp] theorem State.setBankAt_resLog (s : State) (a : Nat) (v : Byte) : (s.setBankAt a v).resLog = s.resLog := rfl
@[simp] theorem State.setBankAt_cmdPort (s : State) (a : Nat) (v : Byte) : (s.setBankAt a v).cmdPort = s.cmdPort := rfl
@[simp] theorem State.setBankAt_agenda (s : State) (a : Nat) (v : Byte) : (s.setBankAt a v).agenda = s.agenda := rfl
@[simp] theorem State.setBankAt_draws (s : State) (a : Nat) (v : Byte) : (s.setBankAt a v).draws = s.draws := rfl

/-! ## busDrive -/

@[simp] theorem State.busDrive_cfg (s : State) : s.busDrive.cfg = s.cfg := rfl
@[simp] theorem State.busDrive_bank (s : State) : s.busDrive.bank = s.bank := rfl
@[simp] theorem State.busDrive_mode (s : State) : s.busDrive.mode = s.mode := rfl
@[simp] theorem State.busDrive_capBuf (s : State) : s.busDrive.capBuf = s.capBuf := rfl
@[simp] theorem State.busDrive_capCnt (s : State) : s.busDrive.capCnt = s.capCnt := rfl
@[simp] theorem State.busDrive_busDir (s : State) : s.busDrive.busDir = .drive := rfl
@[simp] theorem State.busDrive_tick (s : State) : s.busDrive.tick = s.tick := rfl
@[simp] theorem State.busDrive_hostPend (s : State) : s.busDrive.hostPend = s.hostPend := rfl
@[simp] theorem State.busDrive_seq (s : State) : s.busDrive.seq = s.seq := rfl
@[simp] theorem State.busDrive_reg (s : State) : s.busDrive.reg = s.reg := rfl
@[simp] theorem State.busDrive_res (s : State) : s.busDrive.res = s.res := rfl
@[simp] theorem State.busDrive_resValid (s : State) : s.busDrive.resValid = s.resValid := rfl
@[simp] theorem State.busDrive_refused (s : State) : s.busDrive.refused = s.refused := rfl
@[simp] theorem State.busDrive_hostLog (s : State) : s.busDrive.hostLog = s.hostLog := rfl
@[simp] theorem State.busDrive_busLog (s : State) : s.busDrive.busLog = s.busLog ++ [.drive] := rfl
@[simp] theorem State.busDrive_persistLog (s : State) : s.busDrive.persistLog = s.persistLog := rfl
@[simp] theorem State.busDrive_resLog (s : State) : s.busDrive.resLog = s.resLog := rfl
@[simp] theorem State.busDrive_cmdPort (s : State) : s.busDrive.cmdPort = s.cmdPort := rfl
@[simp] theorem State.busDrive_agenda (s : State) : s.busDrive.agenda = s.agenda := rfl
@[simp] theorem State.busDrive_draws (s : State) : s.busDrive.draws = s.draws := rfl

/-! ## busListen -/

@[simp] theorem State.busListen_cfg (s : State) : s.busListen.cfg = s.cfg := rfl
@[simp] theorem State.busListen_bank (s : State) : s.busListen.bank = s.bank := rfl
@[simp] theorem State.busListen_mode (s : State) : s.busListen.mode = s.mode := rfl
@[simp] theorem State.busListen_capBuf (s : State) : s.busListen.capBuf = s.capBuf := rfl
@[simp] theorem State.busListen_capCnt (s : State) : s.busListen.capCnt = s.capCnt := rfl
@[simp] theorem State.busListen_busDir (s : State) : s.busListen.busDir = .listen := rfl
@[simp] theorem State.busListen_tick (s : State) : s.busListen.tick = s.tick := rfl
@[simp] theorem State.busListen_hostPend (s : State) : s.busListen.hostPend = s.hostPend := rfl
@[simp] theorem State.busListen_seq (s : State) : s.busListen.seq = s.seq := rfl
@[simp] theorem State.busListen_reg (s : State) : s.busListen.reg = s.reg := rfl
@[simp] theorem State.busListen_res (s : State) : s.busListen.res = s.res := rfl
@[simp] theorem State.busListen_resValid (s : State) : s.busListen.resValid = s.resValid := rfl
@[simp] theorem State.busListen_refused (s : State) : s.busListen.refused = s.refused := rfl
@[simp] theorem State.busListen_hostLog (s : State) : s.busListen.hostLog = s.hostLog := rfl
@[simp] theorem State.busListen_busLog (s : State) : s.busListen.busLog = s.busLog ++ [.listen] := rfl
@[simp] theorem State.busListen_persistLog (s : State) : s.busListen.persistLog = s.persistLog := rfl
@[simp] theorem State.busListen_resLog (s : State) : s.busListen.resLog = s.resLog := rfl
@[simp] theorem State.busListen_cmdPort (s : State) : s.busListen.cmdPort = s.cmdPort := rfl
@[simp] theorem State.busListen_agenda (s : State) : s.busListen.agenda = s.agenda := rfl
@[simp] theorem State.busListen_draws (s : State) : s.busListen.draws = s.draws := rfl

/-! ## busSend -/

@[simp] theorem State.busSend_cfg (s : State) (b : Byte) : (s.busSend b).cfg = s.cfg := rfl
@[simp] theorem State.busSend_bank (s : State) (b : Byte) : (s.busSend b).bank = s.bank := rfl
@[simp] theorem State.busSend_mode (s : State) (b : Byte) : (s.busSend b).mode = s.mode := rfl
@[simp] theorem State.busSend_capBuf (s : State) (b : Byte) : (s.busSend b).capBuf = s.capBuf := rfl
@[simp] theorem State.busSend_capCnt (s : State) (b : Byte) : (s.busSend b).capCnt = s.capCnt := rfl
@[simp] theorem State.busSend_busDir (s : State) (b : Byte) : (s.busSend b).busDir = s.busDir := rfl
@[simp] theorem State.busSend_tick (s : State) (b : Byte) : (s.busSend b).tick = s.tick := rfl
@[simp] theorem State.busSend_hostPend (s : State) (b : Byte) : (s.busSend b).hostPend = s.hostPend := rfl
@[simp] theorem State.busSend_seq (s : State) (b : Byte) : (s.busSend b).seq = s.seq := rfl
@[simp] theorem State.busSend_reg (s : State) (b : Byte) : (s.busSend b).reg = s.reg := rfl
@[simp] theorem State.busSend_res (s : State) (b : Byte) : (s.busSend b).res = s.res := rfl
@[simp] theorem State.busSend_resValid (s : State) (b : Byte) : (s.busSend b).resValid = s.resValid := rfl
@[simp] theorem State.busSend_refused (s : State) (b : Byte) : (s.busSend b).refused = s.refused := rfl
@[simp] theorem State.busSend_hostLog (s : State) (b : Byte) : (s.busSend b).hostLog = s.hostLog := rfl
@[simp] theorem State.busSend_busLog (s : State) (b : Byte) : (s.busSend b).busLog = s.busLog ++ [.byte b] := rfl
@[simp] theorem State.busSend_persistLog (s : State) (b : Byte) : (s.busSend b).persistLog = s.persistLog := rfl
@[simp] theorem State.busSend_resLog (s : State) (b : Byte) : (s.busSend b).resLog = s.resLog := rfl
@[simp] theorem State.busSend_cmdPort (s : State) (b : Byte) : (s.busSend b).cmdPort = s.cmdPort := rfl
@[simp] theorem State.busSend_agenda (s : State) (b : Byte) : (s.busSend b).agenda = s.agenda := rfl
@[simp] theorem State.busSend_draws (s : State) (b : Byte) : (s.busSend b).draws = s.draws := rfl

/-! ## persist -/

@[simp] theorem State.persist_cfg (s : State) (a : Nat) (d : List Byte) : (s.persist a d).cfg = s.cfg := rfl
@[simp] theorem State.persist_bank (s : State) (a : Nat) (d : List Byte) : (s.persist a d).bank = s.bank := rfl
@[simp] theorem State.persist_mode (s : State) (a : Nat) (d : List Byte) : (s.persist a d).mode = s.mode := rfl
@[simp] theorem State.persist_capBuf (s : State) (a : Nat) (d : List Byte) : (s.persist a d).capBuf = s.capBuf := rfl
@[simp] theorem State.persist_capCnt (s : State) (a : Nat) (d : List Byte) : (s.persist a d).capCnt = s.capCnt := rfl
@[simp] theorem State.persist_busDir (s : State) (a : Nat) (d : List Byte) : (s.persist a d).busDir = s.busDir := rfl
@[simp] theorem State.persist_tick (s : State) (a : Nat) (d : List Byte) : (s.persist a d).tick = s.tick := rfl
@[simp] theorem State.persist_hostPend (s : State) (a : Nat) (d : List Byte) : (s.persist a d).hostPend = s.hostPend := rfl
@[simp] theorem State.persist_seq (s : State) (a : Nat) (d : List Byte) : (s.persist a d).seq = s.seq := rfl
@[simp] theorem State.persist_reg (s : State) (a : Nat) (d : List Byte) : (s.persist a d).reg = s.reg := rfl
@[simp] theorem State.persist_res (s : State) (a : Nat) (d : List Byte) : (s.persist a d).res = s.res := rfl
@[simp] theorem State.persist_resValid (s : State) (a : Nat) (d : List Byte) : (s.persist a d).resValid = s.resValid := rfl
@[simp] theorem State.persist_refused (s : State) (a : Nat) (d : List Byte) : (s.persist a d).refused = s.refused := rfl
@[simp] theorem State.persist_hostLog (s : State) (a : Nat) (d : List Byte) : (s.persist a d).hostLog = s.hostLog := rfl
@[simp] theorem State.persist_busLog (s : State) (a : Nat) (d : List Byte) : (s.persist a d).busLog = s.busLog := rfl
@[simp] theorem State.persist_persistLog (s : State) (a : Nat) (d : List Byte) : (s.persist a d).persistLog = s.persistLog ++ [.persist a d] := rfl
@[simp] theorem State.persist_resLog (s : State) (a : Nat) (d : List Byte) : (s.persist a d).resLog = s.resLog := rfl
@[simp] theorem State.persist_cmdPort (s : State) (a : Nat) (d : List Byte) : (s.persist a d).cmdPort = s.cmdPort := rfl
@[simp] theorem State.persist_agenda (s : State) (a : Nat) (d : List Byte) : (s.persist a d).agenda = s.agenda := rfl
@[simp] theorem State.persist_draws (s : State) (a : Nat) (d : List Byte) : (s.persist a d).draws = s.draws := rfl

/-! ## hostFlush -/

@[simp] theorem State.hostFlush_cfg (s : State) : s.hostFlush.cfg = s.cfg := rfl
@[simp] theorem State.hostFlush_bank (s : State) : s.hostFlush.bank = s.bank := rfl
@[simp] theorem State.hostFlush_mode (s : State) : s.hostFlush.mode = s.mode := rfl
@[simp] theorem State.hostFlush_capBuf (s : State) : s.hostFlush.capBuf = s.capBuf := rfl
@[simp] theorem State.hostFlush_capCnt (s : State) : s.hostFlush.capCnt = s.capCnt := rfl
@[simp] theorem State.hostFlush_busDir (s : State) : s.hostFlush.busDir = s.busDir := rfl
@[simp] theorem State.hostFlush_tick (s : State) : s.hostFlush.tick = s.tick := rfl
@[simp] theorem State.hostFlush_hostPend (s : State) : s.hostFlush.hostPend = 0 := rfl
@[simp] theorem State.hostFlush_seq (s : State) : s.hostFlush.seq = s.seq := rfl
@[simp] theorem State.hostFlush_reg (s : State) : s.hostFlush.reg = s.reg := rfl
@[simp] theorem State.hostFlush_res (s : State) : s.hostFlush.res = s.res := rfl
@[simp] theorem State.hostFlush_resValid (s : State) : s.hostFlush.resValid = s.resValid := rfl
@[simp] theorem State.hostFlush_refused (s : State) : s.hostFlush.refused = s.refused := rfl
@[simp] theorem State.hostFlush_hostLog (s : State) : s.hostFlush.hostLog = s.hostLog ++ [.flush] := rfl
@[simp] theorem State.hostFlush_busLog (s : State) : s.hostFlush.busLog = s.busLog := rfl
@[simp] theorem State.hostFlush_persistLog (s : State) : s.hostFlush.persistLog = s.persistLog := rfl
@[simp] theorem State.hostFlush_resLog (s : State) : s.hostFlush.resLog = s.resLog := rfl
@[simp] theorem State.hostFlush_cmdPort (s : State) : s.hostFlush.cmdPort = s.cmdPort := rfl
@[simp] theorem State.hostFlush_agenda (s : State) : s.hostFlush.agenda = s.agenda := rfl
@[simp] theorem State.hostFlush_draws (s : State) : s.hostFlush.draws = s.draws := rfl

/-! ## hostSend -/

@[simp] theorem State.hostSend_cfg (s : State) (b : Byte) : (s.hostSend b).cfg = s.cfg := rfl
@[simp] theorem State.hostSend_bank (s : State) (b : Byte) : (s.hostSend b).bank = s.bank := rfl
@[simp] theorem State.hostSend_mode (s : State) (b : Byte) : (s.hostSend b).mode = s.mode := rfl
@[simp] theorem State.hostSend_capBuf (s : State) (b : Byte) : (s.hostSend b).capBuf = s.capBuf := rfl
@[simp] theorem State.hostSend_capCnt (s : State) (b : Byte) : (s.hostSend b).capCnt = s.capCnt := rfl
@[simp] theorem State.hostSend_busDir (s : State) (b : Byte) : (s.hostSend b).busDir = s.busDir := rfl
@[simp] theorem State.hostSend_tick (s : State) (b : Byte) : (s.hostSend b).tick = s.tick := rfl
@[simp] theorem State.hostSend_hostPend (s : State) (b : Byte) : (s.hostSend b).hostPend = s.hostPend + 1 := rfl
@[simp] theorem State.hostSend_seq (s : State) (b : Byte) : (s.hostSend b).seq = s.seq := rfl
@[simp] theorem State.hostSend_reg (s : State) (b : Byte) : (s.hostSend b).reg = s.reg := rfl
@[simp] theorem State.hostSend_res (s : State) (b : Byte) : (s.hostSend b).res = s.res := rfl
@[simp] theorem State.hostSend_resValid (s : State) (b : Byte) : (s.hostSend b).resValid = s.resValid := rfl
@[simp] theorem State.hostSend_refused (s : State) (b : Byte) : (s.hostSend b).refused = s.refused := rfl
@[simp] theorem State.hostSend_hostLog (s : State) (b : Byte) : (s.hostSend b).hostLog = s.hostLog ++ [.byte b] := rfl
@[simp] theorem State.hostSend_busLog (s : State) (b : Byte) : (s.hostSend b).busLog = s.busLog := rfl
@[simp] theorem State.hostSend_persistLog (s : State) (b : Byte) : (s.hostSend b).persistLog = s.persistLog := rfl
@[simp] theorem State.hostSend_resLog (s : State) (b : Byte) : (s.hostSend b).resLog = s.resLog := rfl
@[simp] theorem State.hostSend_cmdPort (s : State) (b : Byte) : (s.hostSend b).cmdPort = s.cmdPort := rfl
@[simp] theorem State.hostSend_agenda (s : State) (b : Byte) : (s.hostSend b).agenda = s.agenda := rfl
@[simp] theorem State.hostSend_draws (s : State) (b : Byte) : (s.hostSend b).draws = s.draws := rfl

/-! ## result -/

@[simp] theorem State.result_cfg (s : State) (e : ResultCode) (d : List Byte) : (s.result e d).cfg = s.cfg := rfl
@[simp] theorem State.result_bank (s : State) (e : ResultCode) (d : List Byte) : (s.result e d).bank = s.bank := rfl
@[simp] theorem State.result_mode (s : State) (e : ResultCode) (d : List Byte) : (s.result e d).mode = s.mode := rfl
@[simp] theorem State.result_capBuf (s : State) (e : ResultCode) (d : List Byte) : (s.result e d).capBuf = s.capBuf := rfl
@[simp] theorem State.result_capCnt (s : State) (e : ResultCode) (d : List Byte) : (s.result e d).capCnt = s.capCnt := rfl
@[simp] theorem State.result_busDir (s : State) (e : ResultCode) (d : List Byte) : (s.result e d).busDir = s.busDir := rfl
@[simp] theorem State.result_tick (s : State) (e : ResultCode) (d : List Byte) : (s.result e d).tick = s.tick := rfl
@[simp] theorem State.result_hostPend (s : State) (e : ResultCode) (d : List Byte) : (s.result e d).hostPend = s.hostPend := rfl
@[simp] theorem State.result_seq (s : State) (e : ResultCode) (d : List Byte) : (s.result e d).seq = s.seq := rfl
@[simp] theorem State.result_reg (s : State) (e : ResultCode) (d : List Byte) : (s.result e d).reg = s.reg := rfl
@[simp] theorem State.result_res (s : State) (e : ResultCode) (d : List Byte) : (s.result e d).res = ⟨e.code, d⟩ := rfl
@[simp] theorem State.result_resValid (s : State) (e : ResultCode) (d : List Byte) : (s.result e d).resValid = true := rfl
@[simp] theorem State.result_refused (s : State) (e : ResultCode) (d : List Byte) : (s.result e d).refused = s.refused := rfl
@[simp] theorem State.result_hostLog (s : State) (e : ResultCode) (d : List Byte) : (s.result e d).hostLog = s.hostLog := rfl
@[simp] theorem State.result_busLog (s : State) (e : ResultCode) (d : List Byte) : (s.result e d).busLog = s.busLog := rfl
@[simp] theorem State.result_persistLog (s : State) (e : ResultCode) (d : List Byte) : (s.result e d).persistLog = s.persistLog := rfl
@[simp] theorem State.result_resLog (s : State) (e : ResultCode) (d : List Byte) : (s.result e d).resLog = s.resLog ++ [⟨e.code, d⟩] := rfl
@[simp] theorem State.result_cmdPort (s : State) (e : ResultCode) (d : List Byte) : (s.result e d).cmdPort = s.cmdPort := rfl
@[simp] theorem State.result_agenda (s : State) (e : ResultCode) (d : List Byte) : (s.result e d).agenda = s.agenda := rfl
@[simp] theorem State.result_draws (s : State) (e : ResultCode) (d : List Byte) : (s.result e d).draws = s.draws := rfl

/-! ## finish -/

@[simp] theorem State.finish_cfg (s : State) (e : ResultCode) (d : List Byte) : (s.finish e d).cfg = s.cfg := rfl
@[simp] theorem State.finish_bank (s : State) (e : ResultCode) (d : List Byte) : (s.finish e d).bank = s.bank := rfl
@[simp] theorem State.finish_mode (s : State) (e : ResultCode) (d : List Byte) : (s.finish e d).mode = s.mode := rfl
@[simp] theorem State.finish_capBuf (s : State) (e : ResultCode) (d : List Byte) : (s.finish e d).capBuf = s.capBuf := rfl
@[simp] theorem State.finish_capCnt (s : State) (e : ResultCode) (d : List Byte) : (s.finish e d).capCnt = s.capCnt := rfl
@[simp] theorem State.finish_busDir (s : State) (e : ResultCode) (d : List Byte) : (s.finish e d).busDir = s.busDir := rfl
@[simp] theorem State.finish_tick (s : State) (e : ResultCode) (d : List Byte) : (s.finish e d).tick = s.tick := rfl
@[simp] theorem State.finish_hostPend (s : State) (e : ResultCode) (d : List Byte) : (s.finish e d).hostPend = s.hostPend := rfl
@[simp] theorem State.finish_seq (s : State) (e : ResultCode) (d : List Byte) : (s.finish e d).seq = .idle := rfl
@[simp] theorem State.finish_reg (s : State) (e : ResultCode) (d : List Byte) : (s.finish e d).reg = s.reg := rfl
@[simp] theorem State.finish_res (s : State) (e : ResultCode) (d : List Byte) : (s.finish e d).res = ⟨e.code, d⟩ := rfl
@[simp] theorem State.finish_resValid (s : State) (e : ResultCode) (d : List Byte) : (s.finish e d).resValid = true := rfl
@[simp] theorem State.finish_refused (s : State) (e : ResultCode) (d : List Byte) : (s.finish e d).refused = s.refused := rfl
@[simp] theorem State.finish_hostLog (s : State) (e : ResultCode) (d : List Byte) : (s.finish e d).hostLog = s.hostLog := rfl
@[simp] theorem State.finish_busLog (s : State) (e : ResultCode) (d : List Byte) : (s.finish e d).busLog = s.busLog := rfl
@[simp] theorem State.finish_persistLog (s : State) (e : ResultCode) (d : List Byte) : (s.finish e d).persistLog = s.persistLog := rfl
@[simp] theorem State.finish_resLog (s : State) (e : ResultCode) (d : List Byte) : (s.finish e d).resLog = s.resLog ++ [⟨e.code, d⟩] := rfl
@[simp] theorem State.finish_cmdPort (s : State) (e : ResultCode) (d : List Byte) : (s.finish e d).cmdPort = s.cmdPort := rfl
@[simp] theorem State.finish_agenda (s : State) (e : ResultCode) (d : List Byte) : (s.finish e d).agenda = s.agenda := rfl
@[simp] theorem State.finish_draws (s : State) (e : ResultCode) (d : List Byte) : (s.finish e d).draws = s.draws := rfl

/-! ## raise -/

@[simp] theorem State.raise_cfg (s : State) (e : ResultCode) : (s.raise e).cfg = s.cfg := rfl
@[simp] theorem State.raise_bank (s : State) (e : ResultCode) : (s.raise e).bank = s.bank := rfl
@[simp] theorem State.raise_mode (s : State) (e : ResultCode) : (s.raise e).mode = s.mode := rfl
@[simp] theorem State.raise_capBuf (s : State) (e : ResultCode) : (s.raise e).capBuf = s.capBuf := rfl
@[simp] theorem State.raise_capCnt (s : State) (e : ResultCode) : (s.raise e).capCnt = s.capCnt := rfl
@[simp] theorem State.raise_busDir (s : State) (e : ResultCode) : (s.raise e).busDir = s.busDir := rfl
@[simp] theorem State.raise_tick (s : State) (e : ResultCode) : (s.raise e).tick = s.tick := rfl
@[simp] theorem State.raise_hostPend (s : State) (e : ResultCode) : (s.raise e).hostPend = s.hostPend := rfl
@[simp] theorem State.raise_seq (s : State) (e : ResultCode) : (s.raise e).seq = .idle := rfl
@[simp] theorem State.raise_reg (s : State) (e : ResultCode) : (s.raise e).reg = s.reg := rfl
@[simp] theorem State.raise_res (s : State) (e : ResultCode) : (s.raise e).res = ⟨e.code, []⟩ := rfl
@[simp] theorem State.raise_resValid (s : State) (e : ResultCode) : (s.raise e).resValid = true := rfl
@[simp] theorem State.raise_refused (s : State) (e : ResultCode) : (s.raise e).refused = s.refused := rfl
@[simp] theorem State.raise_hostLog (s : State) (e : ResultCode) : (s.raise e).hostLog = s.hostLog := rfl
@[simp] theorem State.raise_busLog (s : State) (e : ResultCode) : (s.raise e).busLog = s.busLog := rfl
@[simp] theorem State.raise_persistLog (s : State) (e : ResultCode) : (s.raise e).persistLog = s.persistLog := rfl
@[simp] theorem State.raise_resLog (s : State) (e : ResultCode) : (s.raise e).resLog = s.resLog ++ [⟨e.code, []⟩] := rfl
@[simp] theorem State.raise_cmdPort (s : State) (e : ResultCode) : (s.raise e).cmdPort = s.cmdPort := rfl
@[simp] theorem State.raise_agenda (s : State) (e : ResultCode) : (s.raise e).agenda = s.agenda := rfl
@[simp] theorem State.raise_draws (s : State) (e : ResultCode) : (s.raise e).draws = s.draws := rfl

/-! ## refuse -/

@[simp] theorem State.refuse_cfg (s : State) : s.refuse.cfg = s.cfg := rfl
@[simp] theorem State.refuse_bank (s : State) : s.refuse.bank = s.bank := rfl
@[simp] theorem State.refuse_mode (s : State) : s.refuse.mode = s.mode := rfl
@[simp] theorem State.refuse_capBuf (s : State) : s.refuse.capBuf = s.capBuf := rfl
@[simp] theorem State.refuse_capCnt (s : State) : s.refuse.capCnt = s.capCnt := rfl
@[simp] theorem State.refuse_busDir (s : State) : s.refuse.busDir = s.busDir := rfl
@[simp] theorem State.refuse_tick (s : State) : s.refuse.tick = s.tick := rfl
@[simp] theorem State.refuse_hostPend (s : State) : s.refuse.hostPend = s.hostPend := rfl
@[simp] theorem State.refuse_seq (s : State) : s.refuse.seq = s.seq := rfl
@[simp] theorem State.refuse_reg (s : State) : s.refuse.reg = s.reg := rfl
@[simp] theorem State.refuse_res (s : State) : s.refuse.res = s.res := rfl
@[simp] theorem State.refuse_resValid (s : State) : s.refuse.resValid = s.resValid := rfl
@[simp] theorem State.refuse_refused (s : State) : s.refuse.refused = true := rfl
@[simp] theorem State.refuse_hostLog (s : State) : s.refuse.hostLog = s.hostLog := rfl
@[simp] theorem State.refuse_busLog (s : State) : s.refuse.busLog = s.busLog := rfl
@[simp] theorem State.refuse_persistLog (s : State) : s.refuse.persistLog = s.persistLog := rfl
@[simp] theorem State.refuse_resLog (s : State) : s.refuse.resLog = s.resLog := rfl
@[simp] theorem State.refuse_cmdPort (s : State) : s.refuse.cmdPort = s.cmdPort := rfl
@[simp] theorem State.refuse_agenda (s : State) : s.refuse.agenda = s.agenda := rfl
@[simp] theorem State.refuse_draws (s : State) : s.refuse.draws = s.draws := rfl

/-! ## afterAgenda -/

@[simp] theorem afterAgenda_cfg (s : State) : (afterAgenda s).cfg = s.cfg := rfl
@[simp] theorem afterAgenda_bank (s : State) : (afterAgenda s).bank = s.bank := rfl
@[simp] theorem afterAgenda_mode (s : State) : (afterAgenda s).mode = s.mode := rfl
@[simp] theorem afterAgenda_capBuf (s : State) : (afterAgenda s).capBuf = s.capBuf := rfl
@[simp] theorem afterAgenda_capCnt (s : State) : (afterAgenda s).capCnt = s.capCnt := rfl
@[simp] theorem afterAgenda_busDir (s : State) : (afterAgenda s).busDir = s.busDir := rfl
@[simp] theorem afterAgenda_tick (s : State) : (afterAgenda s).tick = s.tick := rfl
@[simp] theorem afterAgenda_hostPend (s : State) : (afterAgenda s).hostPend = s.hostPend := rfl
@[simp] theorem afterAgenda_seq (s : State) : (afterAgenda s).seq = s.seq := rfl
@[simp] theorem afterAgenda_reg (s : State) : (afterAgenda s).reg = s.reg := rfl
@[simp] theorem afterAgenda_res (s : State) : (afterAgenda s).res = s.res := rfl
@[simp] theorem afterAgenda_resValid (s : State) : (afterAgenda s).resValid = s.resValid := rfl
@[simp] theorem afterAgenda_refused (s : State) : (afterAgenda s).refused = s.refused := rfl
@[simp] theorem afterAgenda_hostLog (s : State) : (afterAgenda s).hostLog = s.hostLog := rfl
@[simp] theorem afterAgenda_busLog (s : State) : (afterAgenda s).busLog = s.busLog := rfl
@[simp] theorem afterAgenda_persistLog (s : State) : (afterAgenda s).persistLog = s.persistLog := rfl
@[simp] theorem afterAgenda_resLog (s : State) : (afterAgenda s).resLog = s.resLog := rfl
@[simp] theorem afterAgenda_cmdPort (s : State) : (afterAgenda s).cmdPort = s.cmdPort := rfl
@[simp] theorem afterAgenda_agenda (s : State) : (afterAgenda s).agenda = s.agenda.tail := rfl
@[simp] theorem afterAgenda_draws (s : State) : (afterAgenda s).draws = s.draws := rfl

end Sys2Proof.Machine
end

