-- ==== Sys2Proof/Laws/Codec.lean ====
section
/-! SUPPORT. Laws of the decoder's list operands, the checksum and the frames. -/

namespace Sys2Proof

theorem takeExact_append (xs rest : List Byte) : takeExact xs.length (xs ++ rest) = some (xs, rest) := by
  induction xs with
  | nil => rfl
  | cons x xs ih => simp [takeExact, ih]

/-- `takeExact` answers exactly a list of the length asked for and what follows it. -/
theorem takeExact_some {n : Nat} {bs xs rest : List Byte} (h : takeExact n bs = some (xs, rest)) :
    bs = xs ++ rest ∧ xs.length = n := by
  induction n generalizing bs xs with
  | zero => simp [takeExact] at h; simp [← h.1, h.2]
  | succ n ih =>
    cases bs with
    | nil => simp [takeExact] at h
    | cons b bs =>
      simp only [takeExact] at h
      split at h
      · simp at h
      · rename_i ys r hr
        simp only [Option.some.injEq, Prod.mk.injEq] at h
        obtain ⟨rfl, rfl⟩ := h
        obtain ⟨h1, h2⟩ := ih hr
        simp [← h1, h2]

theorem takeExact_short {n : Nat} {bs : List Byte} (h : bs.length < n) : takeExact n bs = none := by
  induction n generalizing bs with
  | zero => simp at h
  | succ n ih =>
    cases bs with
    | nil => rfl
    | cons b bs => simp [takeExact, ih (by simpa using h)]

theorem byte_toNat {n : Nat} (h : n < 256) : (byte n).toNat = n := by
  simp [Nat.mod_eq_of_lt h]

@[simp] theorem byte_of_toNat (b : Byte) : byte b.toNat = b := by simp [byte]

namespace Machine

theorem atMost_iff (bs : List Byte) (n : Nat) : atMost bs n = true ↔ bs.length ≤ n := by
  induction bs generalizing n with
  | nil => simp [atMost]
  | cons b bs ih => cases n <;> simp [atMost, ih]

@[simp] theorem sumBytes_append (xs ys : List Byte) : sumBytes (xs ++ ys) = sumBytes xs + sumBytes ys := by
  induction xs with
  | nil => simp [sumBytes]
  | cons x xs ih => simp [sumBytes, ih]; omega

@[simp] theorem sumBytes_cons (x : Byte) (xs : List Byte) : sumBytes (x :: xs) = x.toNat + sumBytes xs := rfl

@[simp] theorem sumBytes_nil : sumBytes [] = 0 := rfl

theorem sum8_lt (bs : List Byte) : sum8 bs < 256 := Nat.mod_lt _ (by decide)

theorem ck_toNat (bs : List Byte) : (ck bs).toNat = 255 - sum8 bs := byte_toNat (by omega)

/-- A body with its checksum sums to 255 mod 256 (30_encoding.md R72). -/
theorem sum8_with_ck (bs : List Byte) : sum8 (bs ++ [ck bs]) = 255 := by
  have h := sum8_lt bs
  have hc := ck_toNat bs
  simp only [sum8, sumBytes_append, sumBytes_cons, sumBytes_nil] at *
  omega

@[simp] theorem mkframe_length (id code : Byte) (params : List Byte) :
    (mkframe id code params).length = params.length + 6 := by
  simp [mkframe]

theorem validate_iff (raw : List Byte) : validate raw = true ↔ 6 ≤ raw.length ∧ sum8 (raw.drop 2) = 255 := by
  unfold validate; split <;> simp <;> omega

/-- The running sum of a stream, one byte on. -/
theorem byte_sum_snoc (xs : List Byte) (b : Byte) : byte (sumBytes xs) + b = byte (sumBytes (xs ++ [b])) := by
  apply BitVec.eq_of_toNat_eq; simp

/-- SR_CK's byte is the frame's checksum. -/
theorem byte_sub_sum (xs : List Byte) : byte 255 - byte (sumBytes xs) = ck xs := by
  apply BitVec.eq_of_toNat_eq
  rw [ck_toNat]
  simp [sum8, BitVec.toNat_sub]; omega

theorem hostBytes_append (xs ys : List HostEvent) : hostBytes (xs ++ ys) = hostBytes xs ++ hostBytes ys := by
  induction xs with
  | nil => rfl
  | cons x xs ih => cases x <;> simp [hostBytes, ih]

end Machine

end Sys2Proof
end

