-- ==== Sys2Proof/Laws/Memory.lean ====
section
/-! SUPPORT. The bank's laws: a read after a write, the canonical form, the whole-range read and write, and the bounds
check. -/

namespace Sys2Proof.Machine

variable {dflt : Nat → Byte}

theorem Memory.wfFrom_mono {m : Memory} {lo lo' : Nat} (h : lo' ≤ lo) (hm : Memory.wfFrom dflt lo m = true) :
    Memory.wfFrom dflt lo' m = true := by
  cases m with
  | nil => rfl
  | cons c m =>
    simp only [Memory.wfFrom, Bool.and_eq_true, decide_eq_true_eq] at hm ⊢
    exact ⟨⟨by omega, hm.1.2⟩, hm.2⟩

/-- An address below the form's start is not listed. -/
theorem Memory.read_below {m : Memory} {lo a : Nat} (hm : Memory.wfFrom dflt lo m = true) (h : a < lo) :
    Memory.read dflt m a = dflt a := by
  induction m generalizing lo with
  | nil => rfl
  | cons c m ih =>
    simp only [Memory.wfFrom, Bool.and_eq_true, decide_eq_true_eq] at hm
    have hne : c.1 ≠ a := by omega
    simpa [Memory.read, hne] using ih hm.2 (by omega)

theorem Memory.write_wfFrom {m : Memory} {lo a : Nat} {v : Byte} (hm : Memory.wfFrom dflt lo m = true) (h : lo ≤ a) :
    Memory.wfFrom dflt lo (Memory.write dflt m a v) = true := by
  induction m generalizing lo with
  | nil =>
    by_cases hv : v = dflt a <;> simp [Memory.write, Memory.wfFrom, hv, h]
  | cons c m ih =>
    obtain ⟨x, w⟩ := c
    have hm' := hm
    simp only [Memory.wfFrom, Bool.and_eq_true, decide_eq_true_eq] at hm
    obtain ⟨⟨h1, h2⟩, h3⟩ := hm
    by_cases hlt : a < x
    · by_cases hv : v = dflt a
      · simpa [Memory.write, hlt, hv] using hm'
      · simp [Memory.write, Memory.wfFrom, hlt, hv, h, h2, h3, Nat.succ_le_of_lt hlt]
    · by_cases heq : a = x
      · subst heq
        by_cases hv : v = dflt a
        · simpa [Memory.write, hv] using Memory.wfFrom_mono (by omega) h3
        · simp [Memory.write, Memory.wfFrom, hv, h, h3]
      · have := ih (lo := x + 1) h3 (by omega)
        simp [Memory.write, Memory.wfFrom, hlt, heq, h1, h2, this]

/-- A write keeps the canonical form. -/
theorem Memory.write_wf {m : Memory} {a : Nat} {v : Byte} (hm : Memory.wf dflt m = true) :
    Memory.wf dflt (Memory.write dflt m a v) = true :=
  Memory.write_wfFrom hm (Nat.zero_le a)

/-- A read after a write: the value written at the place written, and elsewhere what it was. -/
theorem Memory.read_write_from {m : Memory} {lo a : Nat} {v : Byte} (hm : Memory.wfFrom dflt lo m = true) (x : Nat) :
    Memory.read dflt (Memory.write dflt m a v) x = if x = a then v else Memory.read dflt m x := by
  induction m generalizing lo with
  | nil =>
    by_cases hx : x = a
    · subst hx
      by_cases hv : v = dflt x <;> simp [Memory.write, Memory.read, hv]
    · by_cases hv : v = dflt a <;> simp [Memory.write, Memory.read, hv, hx, Ne.symm hx]
  | cons c m ih =>
    obtain ⟨y, w⟩ := c
    have hm' := hm
    simp only [Memory.wfFrom, Bool.and_eq_true, decide_eq_true_eq] at hm
    obtain ⟨⟨h1, h2⟩, h3⟩ := hm
    by_cases hlt : a < y
    · have hcons : Memory.wfFrom dflt (a + 1) ((y, w) :: m) = true := by
        simp [Memory.wfFrom, h2, h3, Nat.succ_le_of_lt hlt]
      by_cases hv : v = dflt a
      · by_cases hx : x = a
        · subst hx
          simpa [Memory.write, hlt, hv] using Memory.read_below hcons (Nat.lt_succ_self x)
        · simp [Memory.write, hlt, hv, hx]
      · by_cases hx : x = a
        · subst hx; simp [Memory.write, hlt, hv, Memory.read]
        · simp [Memory.write, hlt, hv, hx, Memory.read, Ne.symm hx]
    · by_cases heq : a = y
      · subst heq
        by_cases hv : v = dflt a
        · by_cases hx : x = a
          · subst hx
            simpa [Memory.write, hv] using Memory.read_below h3 (Nat.lt_succ_self x)
          · simp [Memory.write, hv, hx, Memory.read, Ne.symm hx]
        · by_cases hx : x = a
          · subst hx; simp [Memory.write, hv, Memory.read]
          · simp [Memory.write, hv, hx, Memory.read, Ne.symm hx]
      · have := ih h3
        by_cases hy : y = x
        · subst hy; simp [Memory.write, hlt, heq, Memory.read, Ne.symm heq]
        · simp [Memory.write, hlt, heq, Memory.read, hy, this]

theorem Memory.read_write {m : Memory} {a : Nat} {v : Byte} (hm : Memory.wf dflt m = true) (x : Nat) :
    Memory.read dflt (Memory.write dflt m a v) x = if x = a then v else Memory.read dflt m x :=
  Memory.read_write_from hm x

/-- Every cell of a written memory was there before, or is the byte written. -/
theorem Memory.mem_write {m : Memory} {a : Nat} {v : Byte} {c : Host.Cell} (h : c ∈ Memory.write dflt m a v) :
    c ∈ m ∨ c = (a, v) := by
  induction m with
  | nil =>
    by_cases hv : v = dflt a <;> simp_all [Memory.write]
  | cons d m ih =>
    obtain ⟨x, w⟩ := d
    simp only [Memory.write] at h
    split_ifs at h <;> simp only [List.mem_cons] at h ⊢ <;> tauto

/-- A listed byte is read from a cell; any other is the reset contents. -/
theorem Memory.read_cases (m : Memory) (a : Nat) :
    Memory.read dflt m a = dflt a ∨ (a, Memory.read dflt m a) ∈ m := by
  induction m with
  | nil => exact .inl rfl
  | cons c m ih =>
    obtain ⟨x, w⟩ := c
    by_cases h : x = a
    · subst h; simp [Memory.read]
    · rcases ih with ih | ih
      · exact .inl (by simpa [Memory.read, h] using ih)
      · exact .inr (by simpa [Memory.read, h] using .inr ih)

/-- The bank at power-on is in canonical form. -/
theorem resetWith_bankCanonical (c : Config) : (State.resetWith c).bankCanonical := rfl

/-! ## Whole ranges -/

@[simp] theorem memRead_length (s : State) (a n : Nat) : (memRead s a n).length = n := by
  induction n generalizing a with
  | zero => rfl
  | succ n ih => simp [memRead, ih]

theorem memRead_getElem? (s : State) (a n k : Nat) (h : k < n) : (memRead s a n)[k]? = some (s.bankAt (a + k)) := by
  induction n generalizing a k with
  | zero => omega
  | succ n ih =>
    cases k with
    | zero => simp [memRead]
    | succ k => simpa [memRead, Nat.add_assoc, Nat.add_comm 1] using ih (a + 1) k (by omega)

/-- `MemWrite` writes the bank and nothing else. -/
theorem memWrite_eq (s : State) (a : Nat) (d : List Byte) : memWrite s a d = { s with bank := (memWrite s a d).bank } := by
  induction d generalizing s a with
  | nil => rfl
  | cons v vs ih => rw [memWrite, ih (s.setBankAt a v) (a + 1)]; rfl

theorem memWrite_cfg (s : State) (a : Nat) (d : List Byte) : (memWrite s a d).cfg = s.cfg := by rw [memWrite_eq]

/-- `MemWrite` keeps the canonical form. -/
theorem memWrite_bankCanonical {s : State} (a : Nat) (d : List Byte) (h : s.bankCanonical) :
    (memWrite s a d).bankCanonical := by
  induction d generalizing s a with
  | nil => exact h
  | cons v vs ih => exact ih (a + 1) (Memory.write_wf h)

/-- What the bank reads after `MemWrite`: the data in its range, the old byte elsewhere. -/
theorem memWrite_bankAt {s : State} (a : Nat) (d : List Byte) (h : s.bankCanonical) (x : Nat) :
    (memWrite s a d).bankAt x = if a ≤ x ∧ x < a + d.length then d.getD (x - a) 0 else s.bankAt x := by
  induction d generalizing s a with
  | nil =>
    have : ¬(a ≤ x ∧ x < a + ([] : List Byte).length) := by simp
    rw [if_neg this, memWrite]
  | cons v vs ih =>
    have hc : (s.setBankAt a v).bankCanonical := Memory.write_wf h
    have hw : (s.setBankAt a v).bankAt x = if x = a then v else s.bankAt x := Memory.read_write h x
    rw [memWrite, ih (a + 1) hc, hw]
    by_cases hx : x = a
    · subst hx; simp
    · by_cases hr : a ≤ x ∧ x < a + (v :: vs).length
      · have h1 : a + 1 ≤ x ∧ x < a + 1 + vs.length := by simp at hr; omega
        obtain ⟨k, rfl⟩ : ∃ k, x = a + 1 + k := ⟨x - (a + 1), by omega⟩
        rw [if_pos h1, if_pos hr, show a + 1 + k - (a + 1) = k by omega, show a + 1 + k - a = k + 1 by omega]
        simp
      · have h1 : ¬(a + 1 ≤ x ∧ x < a + 1 + vs.length) := by simp at hr; omega
        rw [if_neg h1, if_neg hr, if_neg hx]

/-- Every cell after `MemWrite` was there before, or holds a byte of the data at its address. -/
theorem memWrite_mem {s : State} {a : Nat} {d : List Byte} {c : Host.Cell} (h : c ∈ (memWrite s a d).bank) :
    c ∈ s.bank ∨ ∃ k v, d[k]? = some v ∧ c = (a + k, v) := by
  induction d generalizing s a with
  | nil => exact .inl h
  | cons v vs ih =>
    rcases ih h with h | ⟨k, w, hk, rfl⟩
    · rcases Memory.mem_write h with h | rfl
      · exact .inl h
      · exact .inr ⟨0, v, by simp, by simp⟩
    · exact .inr ⟨k + 1, w, by simpa using hk, by rw [Nat.add_right_comm a 1 k]; rfl⟩

/-! ## Bounds -/

theorem legalAll_iff (cfg : Config) (a : Nat) (d : List Byte) :
    legalAll cfg a d = true ↔ ∀ k v, d[k]? = some v → legal cfg (a + k) v = true := by
  induction d generalizing a with
  | nil => simp [legalAll]
  | cons w ws ih =>
    simp only [legalAll, Bool.and_eq_true, ih]
    constructor
    · rintro ⟨h0, h⟩ k v hk
      cases k with
      | zero => simp at hk; subst hk; simpa using h0
      | succ k => rw [Nat.add_comm k 1, ← Nat.add_assoc]; exact h k v (by simpa using hk)
    · intro h
      refine ⟨by simpa using h 0 w (by simp), fun k v hk => ?_⟩
      rw [Nat.add_assoc, Nat.add_comm 1 k]; exact h (k + 1) v (by simpa using hk)

theorem legal_address {cfg : Config} {a : Nat} {v : Byte} (h : legal cfg a v = true) :
    startRW ≤ a ∧ a - startRW < cfg.boundLen := by
  unfold legal at h
  split at h
  · simp at h
  · refine ⟨by omega, ?_⟩
    by_contra hc
    simp [Config.bound, Nat.le_of_not_lt hc] at h

end Sys2Proof.Machine
end

