-- ==== Sys2Proof/Laws/Ops.lean ====
section
/-! SUPPORT. What each shared operation can do, said once: the host send path, capture, accept, the two moves of the clock
and the bus, and the schedule. -/

namespace Sys2Proof.Machine

/-- HostSendT: the byte, and a flush exactly when the threshold is reached (44_sync_read.md R147). -/
theorem hostSendT_cases (s : State) (b : Byte) :
    (s.cfg.flushThreshold ≤ s.hostPend + 1 ∧
      s.hostSendT b = { s with hostLog := s.hostLog ++ [.byte b] ++ [.flush], hostPend := 0 }) ∨
    (s.hostPend + 1 < s.cfg.flushThreshold ∧
      s.hostSendT b = { s with hostLog := s.hostLog ++ [.byte b], hostPend := s.hostPend + 1 }) := by
  unfold State.hostSendT
  split <;> rename_i h <;> simp only [State.hostSend_hostPend] at h
  · exact .inl ⟨h, rfl⟩
  · exact .inr ⟨by omega, rfl⟩

/-- HostSendT writes the host log and the pending count only. -/
theorem hostSendT_eq (s : State) (b : Byte) :
    s.hostSendT b = { s with hostLog := (s.hostSendT b).hostLog, hostPend := (s.hostSendT b).hostPend } := by
  rcases hostSendT_cases s b with ⟨-, h⟩ | ⟨-, h⟩ <;> rw [h]

theorem hostSendT_hostBytes (s : State) (b : Byte) :
    hostBytes (s.hostSendT b).hostLog = hostBytes s.hostLog ++ [b] := by
  rcases hostSendT_cases s b with ⟨-, h⟩ | ⟨-, h⟩ <;> simp [h, hostBytes_append, hostBytes]

theorem hostSendT_hostPend (s : State) (b : Byte) (h : 1 ≤ s.cfg.flushThreshold) :
    (s.hostSendT b).hostPend < s.cfg.flushThreshold := by
  rcases hostSendT_cases s b with ⟨-, e⟩ | ⟨hl, e⟩ <;> rw [e] <;> simp <;> omega

/-- Capture: append below the capacity, drop at it (43_bridge_mode.md R142). -/
theorem capture_cases (s : State) (b : Byte) :
    (s.capCnt < s.cfg.cap ∧
      s.capture b = { s with capBuf := s.capBuf.set s.capCnt b, capCnt := s.capCnt + 1 }) ∨
    (s.cfg.cap ≤ s.capCnt ∧ s.capture b = s) := by
  unfold State.capture
  split <;> rename_i h
  · exact .inl ⟨h, rfl⟩
  · exact .inr ⟨by omega, rfl⟩

/-- Accept: held, refused, or the first step (10_state.md R38). -/
theorem accept_cases (i : Instr) (s : State) (first : State → State) :
    (s.seq ≠ .idle ∧ accept i s first = .next s) ∨
    (s.seq = .idle ∧ admitted s.cfg i = false ∧ accept i s first = .next s.refuse) ∨
    (s.seq = .idle ∧ admitted s.cfg i = true ∧ accept i s first = .next (first (accepted i s))) := by
  by_cases h : s.seq = .idle
  · cases ha : admitted s.cfg i <;> simp [accept, h, ha]
  · exact .inl ⟨h, by simp [accept, h]⟩

theorem accept_idle {i : Instr} {s : State} {first : State → State} (h : s.seq = .idle) (ha : admitted s.cfg i = true) :
    accept i s first = .next (first (accepted i s)) := by
  simp [accept, h, ha]

/-- The persistence signal writes PERSISTLOG only, one event for a write of at least one byte. -/
theorem persistWrite_eq (s : State) (a : Nat) (d : List Byte) :
    persistWrite s a d =
      { s with persistLog := s.persistLog ++ if d = [] then [] else [.persist a d] } := by
  cases d with
  | nil => simp [persistWrite]
  | cons v vs => simp [persistWrite, State.persist]

/-- An arrival writes the host stream in Relay and the capture buffer in Divert, and nothing else (R141, R144). -/
theorem arriveEvent_eq (b : Byte) (s : State) :
    arriveEvent b s =
      { s with
        hostLog := (arriveEvent b s).hostLog
        hostPend := (arriveEvent b s).hostPend
        capBuf := (arriveEvent b s).capBuf
        capCnt := (arriveEvent b s).capCnt } := by
  unfold arriveEvent
  split
  · rcases hostSendT_cases s b with ⟨-, h⟩ | ⟨-, h⟩ <;> rw [h]
  · rcases capture_cases s b with ⟨-, h⟩ | ⟨-, h⟩ <;> rw [h]

/-- The move at the head of the agenda is the next move. -/
theorem nextMove_cons {s : State} {m : Move} {ms : List Move} (h : s.agenda = m :: ms) : nextMove s = m := by
  simp [nextMove, h]

/-- Where the main sequencer has no step, its move leaves the state as it is. -/
theorem mainStep_held {s : State} (h : s.mainEnabled = false) : mainStep s = .next s := by
  unfold State.mainEnabled at h
  unfold mainStep
  split at h <;> rename_i hs
  · cases hc : s.cmdPort <;> simp_all [idleStep]
  · simp only [Bool.or_eq_false_iff] at h
    simp [hs, rrPollStep, h.1, h.2]
  · simp at h

end Sys2Proof.Machine
end

