-- ==== Sys2Proof/Laws/Step.lean ====
section
/-! SUPPORT. What a command and a step can do, said once: exec is accept over the operation's first step, IDLE has three
outcomes, each other state has its own function, and every instruction ends in a next state. -/

namespace Sys2Proof.Machine

/-- The first step of each operation, from the latched state (10_state.md R38). -/
def firstStep : Instr → State → State
  | .regRead .. => regReadStep
  | .regWrite .. => regWriteStep
  | .encodeStatus e _ => encodeStatusStep e
  | .encodeReadCmd t .. => encodeReadCmdStep t
  | .validate .. => validateStep
  | .readRemote .. => readRemoteStep
  | .syncRead .. => syncReadStep

theorem exec_eq_accept (i : Instr) (s : State) : exec i s = accept i s (firstStep i) := by
  cases i <;> rfl

/-- An instruction is held, refused or accepted, and always ends in a next state. -/
theorem exec_cases (i : Instr) (s : State) :
    (s.seq ≠ .idle ∧ exec i s = .next s) ∨
    (s.seq = .idle ∧ admitted s.cfg i = false ∧ exec i s = .next s.refuse) ∨
    (s.seq = .idle ∧ admitted s.cfg i = true ∧ exec i s = .next (firstStep i (accepted i s))) := by
  rw [exec_eq_accept]
  exact accept_cases i s (firstStep i)

/-- From IDLE, within its admitted domain, an instruction takes its first step. -/
theorem exec_admitted {i : Instr} {s : State} (h : s.seq = .idle) (ha : admitted s.cfg i = true) :
    exec i s = .next (firstStep i (accepted i s)) := by
  rw [exec_eq_accept]
  exact accept_idle h ha

/-- IDLE: nothing presented, a sequence that is no command, or a command. -/
theorem idleStep_cases (s : State) :
    (s.cmdPort = [] ∧ idleStep s = .next s) ∨
    (∃ bs more r, s.cmdPort = bs :: more ∧ decode bs = .rejected r ∧
      idleStep s = .next { s with cmdPort := more, refused := true }) ∨
    (∃ bs more i rest, s.cmdPort = bs :: more ∧ decode bs = .ok i rest ∧
      idleStep s = exec i { s with cmdPort := portAfter rest more }) := by
  unfold idleStep
  cases hc : s.cmdPort with
  | nil => exact .inl ⟨rfl, rfl⟩
  | cons bs more =>
    cases hd : decode bs with
    | rejected r => exact .inr (.inl ⟨bs, more, r, rfl, hd, by simp [hd, State.refuse]⟩)
    | ok i rest => exact .inr (.inr ⟨bs, more, i, rest, rfl, hd, by simp [hd]⟩)

theorem portAfter_eq (rest : List Byte) (more : List (List Byte)) :
    portAfter rest more = if rest = [] then more else rest :: more := by
  cases rest <;> simp [portAfter]

/-! The main sequencer's step in each state. -/

theorem mainStep_idle {s : State} (h : s.seq = .idle) : mainStep s = idleStep s := by simp [mainStep, h]
theorem mainStep_rrEnter {s : State} (h : s.seq = .rrEnter) : mainStep s = .next (rrEnterStep s) := by simp [mainStep, h]
theorem mainStep_rrReset {s : State} (h : s.seq = .rrReset) : mainStep s = .next (rrResetStep s) := by simp [mainStep, h]
theorem mainStep_rrDrive {s : State} (h : s.seq = .rrDrive) : mainStep s = .next (rrDriveStep s) := by simp [mainStep, h]
theorem mainStep_rrTx {s : State} (h : s.seq = .rrTx) : mainStep s = rrTxStep s := by simp [mainStep, h]
theorem mainStep_rrListen {s : State} (h : s.seq = .rrListen) : mainStep s = .next (rrListenStep s) := by simp [mainStep, h]
theorem mainStep_rrArm {s : State} (h : s.seq = .rrArm) : mainStep s = .next (rrArmStep s) := by simp [mainStep, h]
theorem mainStep_rrPoll {s : State} (h : s.seq = .rrPoll) : mainStep s = .next (rrPollStep s) := by simp [mainStep, h]
theorem mainStep_rrCheck {s : State} (h : s.seq = .rrCheck) : mainStep s = .next (rrCheckStep s) := by simp [mainStep, h]
theorem mainStep_rrExit {s : State} (h : s.seq = .rrExit) : mainStep s = .next (rrExitStep s) := by simp [mainStep, h]
theorem mainStep_srEnter {s : State} (h : s.seq = .srEnter) : mainStep s = .next (srEnterStep s) := by simp [mainStep, h]
theorem mainStep_srHdr {s : State} (h : s.seq = .srHdr) : mainStep s = srHdrStep s := by simp [mainStep, h]
theorem mainStep_srNext {s : State} (h : s.seq = .srNext) : mainStep s = .next (srNextStep s) := by simp [mainStep, h]
theorem mainStep_srEmit {s : State} (h : s.seq = .srEmit) : mainStep s = srEmitStep s := by simp [mainStep, h]
theorem mainStep_srCk {s : State} (h : s.seq = .srCk) : mainStep s = .next (srCkStep s) := by simp [mainStep, h]
theorem mainStep_srFlush {s : State} (h : s.seq = .srFlush) : mainStep s = .next (srFlushStep s) := by simp [mainStep, h]
theorem mainStep_srExit {s : State} (h : s.seq = .srExit) : mainStep s = .next (srExitStep s) := by simp [mainStep, h]

/-- A step whose next move is known. -/
theorem step_of_nextMove {s : State} {m : Move} (h : nextMove s = m) : step s = takeMove m (afterAgenda s) := by
  rw [← h]; rfl

/-- A run of `m + n` steps is a run of `m`, then of `n`. -/
theorem run_add {s t : State} {m n : Nat} (h : Host.Core.run Sys2Proof.core m s = .next t) :
    Host.Core.run Sys2Proof.core (m + n) s = Host.Core.run Sys2Proof.core n t := by
  induction m generalizing s with
  | zero =>
    injection h with hst
    rw [hst, Nat.zero_add]
  | succ m ih =>
    rw [Nat.succ_add]
    cases hs : Sys2Proof.core.step s <;> simp only [Host.Core.run, hs] at h ⊢ <;> first | exact ih h | cases h

/-! The configuration and the timeout. -/

/-- What a valid configuration keeps (00_scope.md R9). -/
theorem valid_bounds {c : Config} (h : c.valid = true) :
    7 ≤ c.bankSize ∧ c.bankSize ≤ 256 ∧ c.boundLen = c.bankSize - startRW ∧ 6 ≤ c.cap ∧ 1 ≤ c.tickW ∧
      1 ≤ c.flushThreshold ∧ 1 ≤ c.maxSyncIds ∧ c.bankInitRW.length = c.bankSize - startRW ∧ c.timeoutOk = true := by
  unfold Config.valid at h
  simp only [Bool.and_eq_true, decide_eq_true_eq] at h
  obtain ⟨⟨⟨⟨⟨⟨h1, h2, h3⟩, -⟩, -⟩, h4, h5, h6, h7⟩, h8⟩, h9⟩ := h
  exact ⟨h1, h2, h3, h4, h5, h6, h7, h8, h9⟩

theorem device_valid : Config.device.valid = true := by
  unfold Config.device
  split
  · assumption
  · decide

@[simp] theorem freeFill_length (d slot n : Nat) : (freeFill d slot n).length = n := by simp [freeFill]

/-- In a state that meets the invariant the timeout is in the range of R9. -/
theorem timeoutNow_range {s : State} (h : s.Inv) : 1 ≤ s.timeoutNow ∧ s.timeoutNow < 2 ^ s.cfg.tickW := by
  obtain ⟨-, -, -, -, hw, -, -, -, ht⟩ := valid_bounds h.cfg
  have hp : 2 ^ 1 ≤ 2 ^ s.cfg.tickW := Nat.pow_le_pow_right (by decide) hw
  unfold Config.timeoutOk at ht
  unfold State.timeoutNow
  cases hc : s.cfg.timeout with
  | constant n => rw [hc] at ht; simpa using ht
  | uninterpreted =>
    have := Nat.mod_lt (Config.freeTimeout s.bankBytes) (show 0 < 2 ^ s.cfg.tickW - 1 by omega)
    simp only
    omega
  | bankByte a =>
    rw [hc] at ht
    simp only [Bool.and_eq_true, decide_eq_true_eq, Bool.or_eq_true] at ht
    simp only [State.bankAt]
    rcases Memory.read_cases (dflt := s.cfg.resetByte) s.bank a with hr | hr
    · rw [hr]; omega
    · have hl := h.bankLegal _ hr
      simp only [legal] at hl
      split at hl
      · simp at hl
      · rcases ht.2 with h2 | h2
        · omega
        · cases hb : s.cfg.bound (a - startRW) with
          | none => simp [hb] at hl
          | some p =>
            rw [hb] at hl h2
            simp only [decide_eq_true_eq, BitVec.le_def] at hl h2
            omega

/-- A read of the bank depends on the configuration and the bank alone. -/
theorem memRead_congr {s t : State} (hc : t.cfg = s.cfg) (hb : t.bank = s.bank) (a n : Nat) :
    memRead t a n = memRead s a n := by
  induction n generalizing a with
  | zero => rfl
  | succ n ih => simp only [memRead, ih, State.bankAt, hc, hb]

/-- The timeout depends on the configuration and the bank alone. -/
theorem timeoutNow_congr {s t : State} (hc : t.cfg = s.cfg) (hb : t.bank = s.bank) : t.timeoutNow = s.timeoutNow := by
  simp only [State.timeoutNow, State.bankBytes, State.bankAt, memRead_congr hc hb, hc, hb]

end Sys2Proof.Machine
end

