-- ==== Sys2Proof/Laws/Agenda.lean ====
section
/-! SUPPORT. No move of an agent reads or writes the agenda: each commutes with replacing it. -/

namespace Sys2Proof.Machine

/-- `s` with the agenda `ms`. -/
def State.withAgenda (s : State) (ms : List Move) : State := { s with agenda := ms }

/-- The next state of an outcome changed by `f`. -/
def mapNext (f : State → State) (o : Host.Outcome State Fault Refusal) : Host.Outcome State Fault Refusal :=
  match o with
  | .next s => .next (f s)
  | .fault r => .fault r
  | .refused r => .refused r

variable (ms : List Move)

theorem hostSendT_withAgenda (s : State) (b : Byte) :
    (s.withAgenda ms).hostSendT b = (s.hostSendT b).withAgenda ms := by
  rcases hostSendT_cases s b with ⟨h, e⟩ | ⟨h, e⟩ <;>
    rcases hostSendT_cases (s.withAgenda ms) b with ⟨h', e'⟩ | ⟨h', e'⟩ <;> rw [e, e'] <;>
    simp only [State.withAgenda] at h' ⊢ <;> omega

theorem capture_withAgenda (s : State) (b : Byte) : (s.withAgenda ms).capture b = (s.capture b).withAgenda ms := by
  rcases capture_cases s b with ⟨h, e⟩ | ⟨h, e⟩ <;>
    rcases capture_cases (s.withAgenda ms) b with ⟨h', e'⟩ | ⟨h', e'⟩ <;> rw [e, e'] <;>
    simp only [State.withAgenda] at h' ⊢ <;> omega

theorem memWrite_withAgenda (s : State) (a : Nat) (d : List Byte) :
    memWrite (s.withAgenda ms) a d = (memWrite s a d).withAgenda ms := by
  induction d generalizing a s with
  | nil => rfl
  | cons v d ih => exact ih (s.setBankAt a v) (a + 1)

theorem firstStep_withAgenda (i : Instr) (s : State) :
    firstStep i (s.withAgenda ms) = (firstStep i s).withAgenda ms := by
  have hr : (s.withAgenda ms).reg = s.reg := rfl
  have hc : (s.withAgenda ms).cfg = s.cfg := rfl
  cases i with
  | regRead a c =>
    simp only [firstStep, regReadStep, hr, hc, memRead_congr (t := s.withAgenda ms) (s := s) rfl rfl]
    split <;> rfl
  | regWrite a d =>
    simp only [firstStep, regWriteStep, hr, hc, memWrite_withAgenda]
    split
    · cases s.reg.data <;> rfl
    · rfl
  | _ => rfl

theorem exec_withAgenda (i : Instr) (s : State) :
    exec i (s.withAgenda ms) = mapNext (·.withAgenda ms) (exec i s) := by
  simp only [exec_eq_accept, accept, show (s.withAgenda ms).seq = s.seq from rfl,
    show (s.withAgenda ms).cfg = s.cfg from rfl]
  split
  · split
    · exact congrArg Host.Outcome.next (firstStep_withAgenda ms i (accepted i s))
    · rfl
  · rfl

theorem idleStep_withAgenda (s : State) :
    idleStep (s.withAgenda ms) = mapNext (·.withAgenda ms) (idleStep s) := by
  simp only [idleStep, show (s.withAgenda ms).cmdPort = s.cmdPort from rfl]
  cases s.cmdPort with
  | nil => rfl
  | cons bs more =>
    simp only
    cases decode bs with
    | rejected why => rfl
    | ok i rest => exact exec_withAgenda ms i { s with cmdPort := portAfter rest more }

theorem mainStep_withAgenda (s : State) :
    mainStep (s.withAgenda ms) = mapNext (·.withAgenda ms) (mainStep s) := by
  have hr : (s.withAgenda ms).reg = s.reg := rfl
  have hc : (s.withAgenda ms).cfg = s.cfg := rfl
  simp only [mainStep, show (s.withAgenda ms).seq = s.seq from rfl]
  cases s.seq with
  | idle => exact idleStep_withAgenda ms s
  | rrEnter => simp only [rrEnterStep, hr]; split <;> rfl
  | rrTx => simp only [rrTxStep, hr]; cases s.reg.txBuf[s.reg.i]? <;> rfl
  | rrArm => simp only [rrArmStep, timeoutNow_congr (s := s) (t := s.withAgenda ms) rfl rfl]; rfl
  | rrPoll =>
    simp only [rrPollStep, show (s.withAgenda ms).done = s.done from rfl,
      show (s.withAgenda ms).expired = s.expired from rfl]
    split
    · rfl
    · split <;> rfl
  | rrExit => simp only [rrExitStep, hr]; split <;> rfl
  | srHdr => simp only [srHdrStep, hr, hc, hostSendT_withAgenda]; split <;> rfl
  | srNext => simp only [srNextStep, hr]; split <;> rfl
  | srEmit =>
    simp only [srEmitStep, hr, hostSendT_withAgenda]
    split
    · split <;> rfl
    · rfl
  | srCk => simp only [srCkStep, hr, hostSendT_withAgenda]; rfl
  | srFlush => simp only [srFlushStep, show (s.withAgenda ms).hostPend = s.hostPend from rfl]; split <;> rfl
  | _ => rfl

/-- A move commutes with replacing the agenda. -/
theorem takeMove_withAgenda (m : Move) (s : State) :
    takeMove m (s.withAgenda ms) = mapNext (·.withAgenda ms) (takeMove m s) := by
  cases m with
  | main => exact mainStep_withAgenda ms s
  | arrive b =>
    simp only [takeMove, arriveEvent, show (s.withAgenda ms).mode = s.mode from rfl, hostSendT_withAgenda,
      capture_withAgenda]
    split <;> rfl
  | _ => rfl

end Sys2Proof.Machine
end

