-- ==== Sys2Proof/Laws/PerInstr.lean ====
section
/-! SUPPORT. The family CommandLayout of statements about an instruction as syntax: the encoder gives every instruction the
selector and the total length of its layout (30_encoding.md R85). -/

namespace Sys2Proof.Laws.CommandLayout

/-- The encoding of `i` begins with its selector and has its layout's total length. -/
def Statement (i : Instr) : Prop := (encode i).head? = some i.selector ∧ (encode i).length = i.size

theorem regRead (a c : Byte) : Statement (.regRead a c) := ⟨rfl, rfl⟩

theorem regWrite (a : Byte) (d : List Byte) : Statement (.regWrite a d) :=
  ⟨rfl, by simp [encode, Instr.size]; omega⟩

theorem encodeStatus (e : Byte) (p : List Byte) : Statement (.encodeStatus e p) :=
  ⟨rfl, by simp [encode, Instr.size]; omega⟩

theorem encodeReadCmd (t a c : Byte) : Statement (.encodeReadCmd t a c) := ⟨rfl, rfl⟩

theorem validate (r : List Byte) : Statement (.validate r) :=
  ⟨rfl, by simp [encode, Instr.size]; omega⟩

theorem readRemote (t a c : Byte) : Statement (.readRemote t a c) := ⟨rfl, rfl⟩

theorem syncRead (a c : Byte) (ids : List Byte) : Statement (.syncRead a c ids) :=
  ⟨rfl, by simp [encode, Instr.size]; omega⟩

end Sys2Proof.Laws.CommandLayout
end

