-- ==== Sys2Proof/Tests/Slice0.lean ====
section
/-! SUPPORT. Tests. Expected values are the vectors of 95_test_vectors.md (its row is named at each) on its example
configuration, or worked by hand from the rule named. Then one witness for the hypotheses of each obligation that has some. -/

namespace Sys2Proof.Tests

open Sys2Proof.Machine

/-- The block of 95_test_vectors.md section 0 at power-on. -/
def bench : State := State.resetWith Config.bench

/-- The result port after `i` from `s`, if `i` ends in a next state with a valid result. -/
def answer (i : Instr) (s : State) : Option (Byte × List Byte) :=
  match exec i s with
  | .next t => if t.resValid then some (t.res.status, t.res.data) else none
  | .fault _ => none
  | .refused _ => none

/-- A field of the state after `i` from `s`. -/
def after {α : Type} (i : Instr) (s : State) (f : State → α) : Option α :=
  match exec i s with
  | .next t => some (f t)
  | .fault _ => none
  | .refused _ => none

/-- A field of the state after one step from `s`. -/
def stepped {α : Type} (s : State) (f : State → α) : Option α :=
  match step s with
  | .next t => some (f t)
  | .fault _ => none
  | .refused _ => none

/-! ## Well-formedness: one ill-formed term for each check -/

theorem test_ill_formed_regWrite : (Instr.regWrite 4 (List.replicate 256 0)).wellFormed = false := by
  simp only [Instr.wellFormed, List.length_replicate]; decide

theorem test_ill_formed_encodeStatus : (Instr.encodeStatus 0 (List.replicate 256 0)).wellFormed = false := by
  simp only [Instr.wellFormed, List.length_replicate]; decide

theorem test_ill_formed_validate : (Instr.validate (List.replicate 65536 0)).wellFormed = false := by
  simp only [Instr.wellFormed, List.length_replicate]; decide

theorem test_ill_formed_syncRead : (Instr.syncRead 4 1 (List.replicate 256 0)).wellFormed = false := by
  simp only [Instr.wellFormed, List.length_replicate]; decide

/-! ## Decoding: words written out from 30_encoding.md R85, the first byte in bits 7..0 -/

theorem test_decode_regRead : decodeTableWord 24 0b00000001_00000100_00000001 = some (.regRead 4 1) := by decide

theorem test_decode_regWrite :
    decodeTableWord 40 0b00000000_00110010_00000010_00000100_00000010 = some (.regWrite 4 [50, 0]) := by decide

theorem test_decode_encodeStatus :
    decodeTableWord 32 0b00110010_00000001_00000000_00000011 = some (.encodeStatus 0 [50]) := by decide

theorem test_decode_encodeReadCmd :
    decodeTableWord 32 0b11111111_00000000_11111110_00000100 = some (.encodeReadCmd 0xFE 0 255) := by decide

/-- The length is little-endian: two bytes, not 512. -/
theorem test_decode_validate :
    decodeTableWord 40 0b00001011_00001010_00000000_00000010_00000101 = some (.validate [10, 11]) := by decide

theorem test_decode_readRemote :
    decodeTableWord 32 0b00000010_00000100_00000001_00000110 = some (.readRemote 1 4 2) := by decide

theorem test_decode_syncRead :
    decodeTableWord 48 0b00000010_00000001_00000010_00000010_00000100_00000111 = some (.syncRead 4 2 [1, 2]) := by
  decide

/-- The selectors on either side of the seven are reserved (R87). -/
theorem test_decode_reserved : decodeTableWord 8 0 = none ∧ decodeTableWord 8 8 = none := by decide

/-- Bytes after the total length belong to the next command (R88). -/
theorem test_decode_leaves_the_rest : decode [0x01, 4, 1, 0x06, 1] = .ok (.regRead 4 1) [0x06, 1] := by decide

/-! ## One step of each operation -/

/-- 95 R-10: the read spans the read-only and the read/write region. -/
theorem test_regRead_spans : answer (.regRead 2 3) bench = some (0, [0x05, 0xFD, 0x14]) := by decide

/-- 95 R-9: the sum of address and count does not wrap. -/
theorem test_regRead_no_wrap : answer (.regRead 255 255) bench = some (1, []) := by decide

/-- 95 W-14: one byte changes, and all three are persisted. -/
theorem test_regWrite_accepts :
    after (.regWrite 4 [50, 1, 0]) bench (fun t => (t.res.status, memRead t 4 3, t.persistLog)) =
      some (0, [50, 1, 0], [.persist 4 [50, 1, 0]]) := by decide

/-- 95 W-13: the second byte is below its bound, so the first is not written either. -/
theorem test_regWrite_rejects_whole :
    after (.regWrite 4 [50, 0]) bench (fun t => (t.res.status, memRead t 4 2, t.persistLog)) =
      some (1, [20, 1], []) := by decide

/-- The sequence of results (R23) holds two equal ones in a row, as program P2's two rejected writes give. -/
theorem test_equal_results_both_kept :
    after (.regWrite 3 [0xFD]) { bench with resValid := true, res := ⟨1, []⟩, resLog := [⟨1, []⟩] } State.resLog =
      some [⟨1, []⟩, ⟨1, []⟩] := by decide

/-- 95 section 3.2. -/
theorem test_encodeStatus :
    answer (.encodeStatus 0 [0x12, 0x34, 0x05, 0xFD]) bench =
      some (0, [0xFF, 0xFF, 0xFD, 0x06, 0x00, 0x12, 0x34, 0x05, 0xFD, 0xB4]) := by decide

/-- 95 section 3.2: 254 payload bytes are refused. -/
theorem test_encodeStatus_refuses :
    after (.encodeStatus 0 (List.replicate 254 0)) bench (fun t => (t.refused, t.resValid)) = some (true, false) := by
  decide

/-- 95 section 3.1: three 0xFF in a row. -/
theorem test_encodeReadCmd :
    answer (.encodeReadCmd 0xFF 0xFF 0xFF) bench =
      some (0, [0xFF, 0xFF, 0xFF, 0x04, 0x02, 0xFF, 0xFF, 0xFC]) := by decide

/-- 95 section 3.3: the header is not checked. -/
theorem test_validate_header :
    answer (.validate [0x00, 0xFF, 0x01, 0x04, 0x00, 0x0A, 0x0B, 0xE5]) bench = some (0, [1]) := by decide

/-- 95 section 3.3: a changed length byte. -/
theorem test_validate_length :
    answer (.validate [0xFF, 0xFF, 0x01, 0x05, 0x00, 0x0A, 0x0B, 0xE5]) bench = some (0, [0]) := by decide

/-- 42_bus_transaction.md R119: accept leaves the mode to RR_ENTER. -/
theorem test_readRemote_enters :
    after (.readRemote 1 4 2) bench (fun t => (t.seq, t.mode, t.reg.owner)) = some (.rrEnter, .relay, true) := by decide

/-- 95 S-9: two devices of 127 bytes declare 256, one too many. -/
theorem test_syncRead_refuses :
    after (.syncRead 0 127 [1, 2]) bench (fun t => (t.seq, t.refused)) = some (.idle, true) := by decide

/-- 95 S-8: one device of 253 bytes declares 255. -/
theorem test_syncRead_enters :
    after (.syncRead 0 253 [1]) bench (fun t => (t.seq, t.reg.ids, t.refused)) = some (.srEnter, [1], false) := by decide

/-! ## One step of the sequencer and of each event -/

/-- The bench block at state `q` in mode `m`, with working registers `r` and `n` bytes captured, and `ms` to come. -/
def benchAt (q : Seq) (m : Mode) (r : Working) (n : Nat) (ms : List Move) : State :=
  { bench with seq := q, mode := m, reg := r, capCnt := n, agenda := ms }

/-- The registers of READ_REMOTE 1, 4, 2 in flight, with the timeout of the bench block. -/
def remoteReg : Working := { Working.powerOn with t := 1, a := 4, c := 2, tmo := 20, owner := true }

/-- The registers of SYNC_READ 4, 2, [1, 2] in flight for its first device. -/
def batchReg : Working := { Working.powerOn with t := 1, a := 4, c := 2, ids := [1, 2], l := 6, tmo := 20 }

/-- 95 T-12: the response is there and the deadline too: the response is tested first. -/
theorem test_poll_response_first :
    stepped { benchAt .rrPoll .divert remoteReg 8 [.main] with tick := 20 } State.seq = some .rrCheck := by decide

/-- 95 T-3: at 19 ticks of 20 the transaction is held. -/
theorem test_poll_holds :
    stepped { benchAt .rrPoll .divert remoteReg 7 [.main] with tick := 19 } State.seq = some .rrPoll := by decide

/-- 95 M-2: the sixty-fourth pending byte is sent and flushed. -/
theorem test_arrival_flushes :
    stepped { benchAt .idle .relay .powerOn 0 [.arrive 0x42] with hostPend := 63 }
      (fun t => (t.hostLog, t.hostPend)) = some ([.byte 0x42, .flush], 0) := by decide

/-- 95 M-3. -/
theorem test_arrival_captures :
    stepped (benchAt .rrPoll .divert remoteReg 3 [.arrive 0x42])
      (fun t => (t.capBuf[3]?, t.capCnt, t.hostLog)) = some (some 0x42, 4, []) := by decide

/-- The host's placement: the first step from reset runs the placed command. -/
theorem test_first_step_runs_the_command :
    step (State.reset.withFetchWord 8 7) = exec (.syncRead 0 0 []) State.reset := by rfl

/-! ## Witnesses: the hypotheses of each obligation can be met -/

/-- The invariant at a state of the bench block, from what it asks of the fields that differ. -/
theorem benchAt_inv {q : Seq} {m : Mode} {r : Working} {n : Nat} {ms : List Move} (hn : n ≤ 32)
    (hr : r.data.length ≤ 259 ∧ r.ids.length ≤ 16 ∧ r.txBuf.length = 8 ∧ r.i ≤ 8 ∧ r.t0 < 65536 ∧
      r.rrData.length ≤ 255 ∧ r.slice.length ≤ 255)
    (hq : (benchAt q m r n ms).SeqOk) : (benchAt q m r n ms).Inv where
  cfg := (by decide : Config.bench.valid = true)
  bankForm := rfl
  bankLegal := by simp [benchAt, bench, State.resetWith]
  capBuf := (by decide : bench.capBuf.length = 32)
  capCnt := hn
  tick := (by decide : 0 < 65536)
  hostPend := (by decide : 0 < 64)
  noResult := fun _ => rfl
  lastResult := fun h => absurd h (by decide : (false : Bool) ≠ true)
  widths := ⟨hr.1, hr.2.1, hr.2.2.1, hr.2.2.2.1, hr.2.2.2.2.1, hr.2.2.2.2.2.1, hr.2.2.2.2.2.2, (by decide : 0 ≤ 259),
    fun h => absurd h (by decide : (false : Bool) ≠ true)⟩
  seq := hq

theorem inBatch_bench (q : Seq) (m : Mode) (n : Nat) (ms : List Move) : (benchAt q m batchReg n ms).InBatch :=
  ⟨rfl, (by decide : 2 + 2 * 2 ≤ 255)⟩

theorem inv_idle (ms : List Move) : (benchAt .idle .relay .powerOn 0 ms).Inv := benchAt_inv (by decide) (by decide) rfl

/-- In RR_POLL of a READ_REMOTE, seven bytes short of none to all captured. -/
theorem inv_poll (n : Nat) (h : n ≤ 32) (ms : List Move) : (benchAt .rrPoll .divert remoteReg n ms).Inv :=
  benchAt_inv h (by decide) ⟨⟨rfl, .inl rfl⟩, (by decide : 1 ≤ 20), (by decide : 20 < 65536)⟩

theorem inv_srEnter (ms : List Move) : (benchAt .srEnter .relay batchReg 0 ms).Inv :=
  benchAt_inv (by decide) (by decide) ⟨rfl, inBatch_bench _ _ _ _⟩

theorem inv_srNext (ms : List Move) : (benchAt .srNext .divert batchReg 0 ms).Inv :=
  benchAt_inv (by decide) (by decide) ⟨rfl, inBatch_bench _ _ _ _, (by decide : 0 ≤ 2)⟩

theorem witness_DecodeOfEncodeGivesTheCommand :
    (Instr.regRead 0 0).wellFormed = true ∧ (Instr.regWrite 4 (List.replicate 255 0)).wellFormed = true ∧
    (Instr.encodeStatus 0 []).wellFormed = true ∧ (Instr.encodeReadCmd 1 4 2).wellFormed = true ∧
    (Instr.validate (List.replicate 65535 0)).wellFormed = true ∧ (Instr.readRemote 1 4 2).wellFormed = true ∧
    (Instr.syncRead 4 2 (List.replicate 255 0)).wellFormed = true := by
  simp only [Instr.wellFormed, List.length_replicate]; decide

theorem witness_DecodeTakesExactlyAnEncoding : decode [0x02, 4, 1, 50, 0x01] = .ok (.regWrite 4 [50]) [0x01] := by decide

theorem witness_ReservedSelectorsAreRefused :
    let s : State := { bench with cmdPort := [[8, 1]], agenda := [.main] }
    s.seq = .idle ∧ s.mainNext ∧ s.cmdPort = [[8, 1]] ∧ 8 ≤ (8 : Byte).toNat ∧ (0 : Byte).toNat = 0 :=
  ⟨rfl, rfl, rfl, by decide, by decide⟩

theorem witness_ShortCommandIsOutOfDomain :
    let s : State := { bench with cmdPort := [[0x02, 4, 1]] }
    (Instr.regWrite 4 [50]).wellFormed = true ∧ 3 < (Instr.regWrite 4 [50]).size ∧ 0 < (Instr.regRead 4 1).size ∧
      s.seq = .idle ∧ s.mainNext ∧
      s.cmdPort = [(encode (.regWrite 4 [50])).take 3] :=
  ⟨by decide, by decide, by decide, rfl, by unfold State.mainNext; decide, by decide⟩

theorem witness_StepRunsTheDecodedCommand :
    let s : State := { bench with cmdPort := [[0x01, 4, 1, 0x06]] }
    s.seq = .idle ∧ s.mainNext ∧ s.cmdPort = [[0x01, 4, 1, 0x06]] ∧
      decode [0x01, 4, 1, 0x06] = .ok (.regRead 4 1) [0x06] :=
  ⟨rfl, by unfold State.mainNext; decide, rfl, by decide⟩

theorem witness_BusyBlockHoldsTheCommand :
    let s : State := { benchAt .rrEnter .relay remoteReg 0 [.main] with cmdPort := [[0x01, 4, 1]] }
    let u : State := { s with agenda := [.present [0x06, 1]] }
    s.seq ≠ .idle ∧ (s.mainNext ∧ ∃ t, step s = .next t) ∧
      ∃ t, step u = .next t ∧ t.cmdPort = [[0x01, 4, 1], [0x06, 1]] :=
  ⟨by decide, ⟨rfl, _, rfl⟩, _, rfl, rfl⟩

theorem witness_OutOfDomainCommandOnlySetsRefused :
    bench.seq = .idle ∧ 253 < (List.replicate 254 (0 : Byte)).length ∧ 259 < (List.replicate 260 (0 : Byte)).length ∧
      255 < 2 + (127 : Byte).toNat * [(1 : Byte), 2].length ∧
      bench.cfg.maxSyncIds < (List.replicate 17 (0 : Byte)).length := by
  simp only [List.length_replicate]; decide

/-- Both clauses: the whole bank is read, and one byte past its end is not; a count of 0. -/
theorem witness_RegReadAnswersTheBytesOrRangeError :
    bench.seq = .idle ∧ ((16 : Byte) ≠ 0 ∧ (0 : Byte).toNat + (16 : Byte).toNat ≤ bench.cfg.bankSize) ∧
      bench.cfg.bankSize < (0 : Byte).toNat + (17 : Byte).toNat := by decide

theorem inBounds_bench {a : Byte} {d : List Byte} (h : 4 ≤ a.toNat ∧ a.toNat + d.length ≤ 16)
    (hl : legalAll Config.bench a.toNat d = true) : bench.WriteInBounds a d :=
  ⟨h.1, h.2, (legalAll_iff _ _ _).1 hl⟩

/-- Both clauses. Within: both ends of the bounds of address 4, the last address, and no bytes at the bank's end. Not within:
below the read/write region, past the bank's end, and a value below its bound. -/
theorem witness_RegWriteIsAppliedWholeOrRejectedWhole :
    (bench.seq = .idle ∧ bench.bankCanonical ∧ [(10 : Byte), 1].length ≤ 255) ∧
      (bench.WriteInBounds 4 [10, 1] ∧ bench.WriteInBounds 4 [254] ∧ bench.WriteInBounds 15 [0xAA] ∧
        bench.WriteInBounds 16 []) ∧
      ¬ bench.WriteInBounds 3 [0xFD] ∧ ¬ bench.WriteInBounds 17 [] ∧ ¬ bench.WriteInBounds 4 [9] := by
  refine ⟨⟨rfl, rfl, by decide⟩, ⟨inBounds_bench (by decide) (by decide), inBounds_bench (by decide) (by decide),
    inBounds_bench (by decide) (by decide), inBounds_bench (by decide) (by decide)⟩,
    fun h => absurd h.1 (by decide), fun h => absurd h.2.1 (by decide), fun h => absurd (h.2.2 0 9 rfl) (by decide)⟩

theorem witness_WriteThenReadReturnsTheData :
    bench.seq = .idle ∧ bench.bankCanonical ∧ [(50 : Byte), 1].length ≤ 255 ∧ [(50 : Byte), 1] ≠ [] ∧
      bench.WriteInBounds 4 [50, 1] :=
  ⟨rfl, rfl, by decide, by decide, inBounds_bench (by decide) (by decide)⟩

theorem witness_OnlyRegWriteAndResetChangeTheBank :
    let s : State := { bench with cmdPort := [[0x02, 4, 1, 50]] }
    s.bankCanonical ∧ ∃ t, step s = .next t ∧ t.bankAt 4 ≠ s.bankAt 4 :=
  ⟨rfl, _, rfl, by decide⟩

theorem witness_ReadOnlyPrefixKeepsItsResetBytes : bench.Inv ∧ ∃ t, step bench = .next t := ⟨inv_idle [], _, rfl⟩

theorem witness_EncodeStatusAnswersTheFrame : bench.seq = .idle ∧ (List.replicate 253 (0xFF : Byte)).length ≤ 253 :=
  ⟨rfl, List.length_replicate.le⟩

theorem witness_EncodeReadCmdAnswersTheFrame : bench.seq = .idle := rfl

theorem witness_ValidateAnswersTheChecksumTest : bench.seq = .idle ∧ (List.replicate 259 (0 : Byte)).length ≤ 259 :=
  ⟨rfl, List.length_replicate.le⟩

theorem witness_BuiltFrameIsValid : (List.replicate 253 (0xFF : Byte)).length ≤ 253 := List.length_replicate.le

/-- At the last header byte and at the id. -/
theorem witness_OneByteChangeDetectedPastTheHeader :
    [(10 : Byte), 11].length ≤ 253 ∧ 1 < [(10 : Byte), 11].length + 6 ∧
      (mkframe 1 0 [10, 11])[1]? ≠ some 0 ∧ (mkframe 1 0 [10, 11])[2]? ≠ some 2 ∧
      (mkframe 1 0 [10, 11])[7]? ≠ some 0xE6 := by decide

theorem witness_ChecksumMissesSwapsAndAppendedZero :
    validate [0xFF, 0xFF, 1, 4, 0, 10, 11, 0xE5] = true ∧
      [(0xFF : Byte), 0xFF, 1, 4, 0, 10, 11, 0xE5][5]? = some 10 ∧
      [(0xFF : Byte), 0xFF, 1, 4, 0, 10, 11, 0xE5][6]? = some 11 := by decide

theorem witness_ValidIffLastByteIsTheChecksum : 5 ≤ [(0xFF : Byte), 0xFF, 1, 2, 0].length := by decide

theorem witness_ReadRemoteEntersTheStateMachine : bench.seq = .idle := rfl

theorem witness_TransactionSendsOneReadCommand :
    let s := benchAt .rrReset .divert remoteReg 0 (List.replicate 12 .main)
    s.seq = .rrReset ∧ s.agenda = List.replicate 12 .main ++ [] := ⟨rfl, rfl⟩

/-- Each of the three clauses, at its boundary. -/
theorem witness_PollTestsTheResponseFirst :
    let s := benchAt .rrPoll .divert remoteReg 8 [.main]
    let u := benchAt .rrPoll .divert remoteReg 7 [.main]
    (s.seq = .rrPoll ∧ s.mainNext ∧ s.reg.c.toNat + 6 ≤ s.capCnt) ∧
      (u.capCnt < u.reg.c.toNat + 6 ∧ u.reg.tmo ≤ ({ u with tick := 20 } : State).elapsed) ∧
      ({ u with tick := 19 } : State).elapsed < u.reg.tmo :=
  ⟨⟨rfl, rfl, by decide⟩, by decide, by decide⟩

theorem witness_CheckTakesThePayloadOfAValidResponse :
    let f : List Byte := [0xFF, 0xFF, 1, 4, 0, 10, 11, 0xE5]
    let s : State := { benchAt .rrCheck .divert remoteReg 8 [.main] with capBuf := f ++ List.replicate 24 0 }
    s.seq = .rrCheck ∧ s.mainNext ∧ f.length = s.reg.c.toNat + 6 ∧ f <+: s.capBuf :=
  ⟨rfl, rfl, by decide, List.prefix_append _ _⟩

theorem witness_ExitDeliversOrMakesTheSlice :
    (benchAt .rrExit .divert remoteReg 8 [.main]).mainNext ∧ remoteReg.owner = true ∧ batchReg.owner = false :=
  ⟨rfl, rfl, rfl⟩

theorem witness_ElapsedCountsTicksThroughAWrap :
    let s : State := { benchAt .rrPoll .divert { remoteReg with t0 := 65535 } 0 [] with tick := 65535 }
    s.tick < 2 ^ s.cfg.tickW ∧ s.reg.t0 = s.tick := by decide

theorem witness_OverCapacityReadNeverCompletes :
    let s := benchAt .rrPoll .divert { remoteReg with c := 27 } 32 [.main]
    s.Inv ∧ s.seq = .rrPoll ∧ s.cfg.cap < s.reg.c.toNat + 6 ∧ ∃ t, step s = .next t :=
  ⟨benchAt_inv (by decide) (by decide) ⟨⟨rfl, .inl rfl⟩, by decide, by decide⟩, rfl, by decide, _, rfl⟩

theorem witness_SilentDeviceEndsInTimeout :
    let s := benchAt .rrPoll .divert remoteReg 7 []
    s.Inv ∧ s.seq = .rrPoll ∧ s.reg.owner = true ∧ s.agenda = [] ∧ s.capCnt < s.reg.c.toNat + 6 ∧
      s.elapsed < s.reg.tmo :=
  ⟨inv_poll 7 (by decide) [], rfl, rfl, rfl, by decide, by decide⟩

/-- 95 T-1, with the eight bytes arriving before the poll. -/
theorem witness_AnsweredReadRemoteRunsEndToEnd :
    let f : List Byte := [0xFF, 0xFF, 1, 4, 0, 10, 11, 0xE5]
    let s := benchAt .idle .relay .powerOn 0 ([.present (encode (.readRemote 1 4 2))] ++ List.replicate 14 .main ++
      f.map .arrive ++ List.replicate 3 .main ++ [])
    s.Inv ∧ s.seq = .idle ∧ s.cmdPort = [] ∧ f.length = (2 : Byte).toNat + 6 ∧ f.length ≤ s.cfg.cap :=
  ⟨inv_idle _, rfl, rfl, by decide, by decide⟩

/-- Each row of the table, and RR_ENTER and RR_EXIT inside a batch, where the mode stays. -/
theorem witness_ModeChangesOnlyAsTheTableSays :
    stepped (benchAt .rrEnter .relay remoteReg 0 [.main]) State.mode = some .divert ∧
      stepped (benchAt .srEnter .relay batchReg 0 [.main]) State.mode = some .divert ∧
      stepped (benchAt .rrExit .divert remoteReg 0 [.main]) State.mode = some .relay ∧
      stepped (benchAt .srExit .divert batchReg 0 [.main]) State.mode = some .relay ∧
      stepped (benchAt .rrPoll .divert remoteReg 0 [.reset]) State.mode = some .relay ∧
      stepped (benchAt .rrEnter .relay batchReg 0 [.main]) State.mode = some .relay ∧
      stepped (benchAt .rrExit .divert batchReg 0 [.main]) State.mode = some .divert ∧
      stepped (benchAt .rrPoll .divert remoteReg 0 [.arrive 1]) State.mode = some .divert := by decide

theorem witness_RelayForwardsTheByte :
    let s := benchAt .idle .relay .powerOn 0 [.arrive 0x42]
    s.mode = .relay ∧ nextMove s = .arrive 0x42 := ⟨rfl, rfl⟩

/-- Below the capacity and at it. -/
theorem witness_DivertCapturesUpToTheCapacity :
    let s := benchAt .rrPoll .divert remoteReg 31 [.arrive 0x42]
    let u := benchAt .rrPoll .divert remoteReg 32 [.arrive 0x42]
    s.mode = .divert ∧ nextMove s = .arrive 0x42 ∧ s.capCnt < s.cfg.cap ∧ u.cfg.cap ≤ u.capCnt :=
  ⟨rfl, rfl, by decide, by decide⟩

theorem witness_CaptureBufferIsAppendOnly :
    ∃ t, step (benchAt .rrPoll .divert remoteReg 3 [.arrive 0x42]) = .next t ∧ t.capCnt = 4 := ⟨_, rfl, rfl⟩

theorem witness_HostStreamHasOneWriterAtATime :
    let s := benchAt .idle .relay .powerOn 0 [.arrive 0x42]
    s.Inv ∧ ∃ t, step s = .next t ∧ t.hostLog ≠ s.hostLog := ⟨inv_idle _, _, rfl, by decide⟩

/-- The longest declared length, and the most devices. -/
theorem witness_SyncReadEntersTheBatch :
    bench.seq = .idle ∧ 2 + (253 : Byte).toNat * [(1 : Byte)].length ≤ 255 ∧
      (List.replicate 16 (0 : Byte)).length ≤ bench.cfg.maxSyncIds := by decide

/-- Each clause: the two ends, the first and the last header byte, the first device and past the last, and SR_EMIT with a
byte left and with none. -/
theorem witness_BatchVisitsDevicesInOrder :
    let s := benchAt .srNext .divert batchReg 0 [.main]
    let u := benchAt .srNext .divert { batchReg with k := 2 } 0 [.main]
    s.mainNext ∧ s.seq = .srNext ∧ s.reg.ids[s.reg.k]? = some 1 ∧ u.reg.ids.length ≤ u.reg.k ∧
      (benchAt .srEnter .relay batchReg 0 [.main]).mainNext ∧ (benchAt .srExit .divert batchReg 0 [.main]).mainNext ∧
      [0xFF, 0xFF, s.cfg.bridgeId, s.reg.l, 0x00][0]? = some 0xFF ∧
      [0xFF, 0xFF, s.cfg.bridgeId, s.reg.l, 0x00][4]? = some 0x00 ∧
      (∀ r : Working, r = { batchReg with slice := [10, 11], j := 1 } → r.j < r.c.toNat ∧ r.slice[r.j]? = some 11) ∧
      ∀ r : Working, r = { batchReg with slice := [10, 11], j := 2 } → r.c.toNat ≤ r.j :=
  ⟨rfl, rfl, rfl, by decide, rfl, rfl, rfl, rfl, fun _ h => by subst h; decide, fun _ h => by subst h; decide⟩

/-- The first part at SR_ENTER, the second at SR_NEXT after the header of 95 S-1. -/
theorem witness_BatchKeepsItsStreamAndSum :
    let s := benchAt .srEnter .relay batchReg 0 [.main]
    let u : State := { benchAt .srNext .divert { batchReg with sum := 3 } 0 [.main] with
      hostLog := [.byte 0xFF, .byte 0xFF, .byte 0xFD, .byte 6, .byte 0], hostPend := 5 }
    (s.Inv ∧ s.seq = .srEnter ∧ s.mainNext ∧ ∃ t, step s = .next t) ∧
      (u.Inv ∧ u.InBatch ∧ u.Streamed [] [] ∧ nextMove u ≠ .reset ∧ u.seq ≠ .srExit ∧ ∃ t, step u = .next t) := by
  refine ⟨⟨inv_srEnter _, rfl, rfl, _, rfl⟩, ?_, ⟨rfl, by decide⟩, ?_, by decide, by decide, _, rfl⟩
  · exact ⟨by decide, rfl, by simp [benchAt, bench, State.resetWith], by decide, by decide, by decide, by decide, by decide,
      by decide,
      ⟨by decide, by decide, by decide, by decide, by decide, by decide, by decide, by decide, by decide⟩,
      ⟨rfl, ⟨rfl, by decide⟩, by decide⟩⟩
  · exact ⟨rfl, rfl, by decide, by decide⟩

/-- A batch of no devices (95 S-5): nine steps from SR_ENTER to SR_EXIT. -/
theorem witness_SyncReadStreamsOneStatusFrame :
    let s := benchAt .srEnter .relay { batchReg with ids := [] } 0 []
    s.Inv ∧ s.seq = .srEnter ∧ s.mainNext ∧ (∀ m ∈ s.agenda, m ≠ .reset) ∧
      (∀ k, k < 9 → ∃ u, Host.Core.run Sys2Proof.core k s = .next u ∧ u.seq ≠ .idle) ∧
      ∃ t, Host.Core.run Sys2Proof.core 9 s = .next t ∧ t.seq = .srExit := by
  refine ⟨benchAt_inv (by decide) (by decide) ⟨rfl, rfl, by decide⟩, rfl, rfl, by decide, fun k hk => ?_, _, rfl, rfl⟩
  interval_cases k <;> exact ⟨_, rfl, by decide⟩

theorem witness_SilentBusGivesAFrameOfSentinels :
    let s := benchAt .srEnter .relay batchReg 0 []
    s.Inv ∧ s.seq = .srEnter ∧ s.agenda = [] := ⟨inv_srEnter _, rfl, rfl⟩

theorem witness_BatchEndsWithChecksumAndFlush :
    let s := benchAt .srCk .divert batchReg 0 [.main, .main]
    s.seq = .srCk ∧ s.agenda = [.main, .main] ++ [] := ⟨rfl, rfl⟩

theorem witness_ResetRestoresTheResetValues :
    nextMove (benchAt .rrPoll .divert remoteReg 3 [.reset]) = .reset := rfl

theorem witness_TickAdvancesTheCounterAlone :
    nextMove bench = .tick ∧ nextMove (benchAt .srCk .divert batchReg 0 []) ≠ .tick ∧
      nextMove (benchAt .srCk .divert batchReg 0 []) ≠ .reset := by decide

/-- A result is there, and the next command takes it away. -/
theorem witness_ResultStaysUntilTheNextCommand :
    let s : State := { benchAt .idle .relay .powerOn 0 [.main] with
      resValid := true, resLog := [⟨0, []⟩], cmdPort := [[0x06, 1, 4, 2]] }
    s.Inv ∧ s.resValid = true ∧ ∃ t, step s = .next t ∧ t.resValid = false := by
  refine ⟨⟨by decide, rfl, by simp [benchAt, bench, State.resetWith], by decide, by decide, by decide, by decide, by decide,
    by decide,
    ⟨by decide, by decide, by decide, by decide, by decide, by decide, by decide, by decide, by decide⟩, rfl⟩,
    rfl, _, rfl, rfl⟩

theorem witness_EventsLeaveTheOperationAlone :
    nextMove (benchAt .rrPoll .divert remoteReg 3 [.arrive 0x42]) = .arrive 0x42 ∧ nextMove bench = .tick ∧
      nextMove (benchAt .srCk .divert batchReg 0 [.present [0x01]]) = .present [0x01] := by decide

theorem witness_PowerOnHasTheResetValues : Config.bench.valid = true := by decide

/-- Both sides: the example configuration is none of the refused, and a bank of six bytes, a bank-byte timeout that resets
to 0, and a timeout of 2^TICK_W ticks are. -/
theorem witness_BadConfigurationIsRefused :
    State.configure Config.bench = .next (State.resetWith Config.bench) ∧
      State.configure { Config.bench with bankSize := 6 } = .refused .badConfiguration ∧
      State.configure { Config.bench with timeout := .bankByte 6 } = .refused .badConfiguration ∧
      State.configure { Config.bench with timeout := .constant 65536 } = .refused .badConfiguration :=
  ⟨rfl, rfl, rfl, rfl⟩

theorem witness_InvariantHoldsAtReset : Config.bench.valid = true := by decide

theorem witness_EveryStepKeepsTheInvariant :
    (benchAt .srNext .divert batchReg 0 []).Inv ∧ ∃ t, step (benchAt .srNext .divert batchReg 0 []) = .next t :=
  ⟨inv_srNext _, _, rfl⟩

/-- In Relay and in Divert. -/
theorem witness_InvariantGivesTheRulesClauses :
    bench.Inv ∧ bench.seq = .idle ∧ (benchAt .srNext .divert batchReg 0 []).Inv := ⟨inv_idle [], rfl, inv_srNext _⟩

theorem witness_InvariantStatesNeverStop : (benchAt .rrPoll .divert remoteReg 7 []).Inv := inv_poll 7 (by decide) []

theorem witness_EveryOperationEnds : (benchAt .rrPoll .divert remoteReg 7 [.present [0x07, 4, 2, 2, 1, 2]]).Inv :=
  inv_poll 7 (by decide) _

/-- A READ_REMOTE one tick before its deadline: the tick, the poll, the exit, and ticks for ever. -/
def fairMoves : Nat → Move
  | 0 => .tick
  | 1 => .main
  | 2 => .main
  | _ + 3 => .tick

/-- The states of that run. -/
def fairStates : Nat → State
  | 0 => { benchAt .rrPoll .divert { remoteReg with tmo := 1 } 0 [] with tick := 0 }
  | 1 => { benchAt .rrPoll .divert { remoteReg with tmo := 1 } 0 [] with tick := 1 }
  | 2 => { benchAt .rrExit .divert { remoteReg with tmo := 1, rrst := .timeout } 0 [] with tick := 1 }
  | n + 3 =>
    { benchAt .idle .relay { remoteReg with tmo := 1, rrst := .timeout } 0 [] with
      tick := (n + 1) % 65536, res := ⟨2, []⟩, resValid := true, resLog := [⟨2, []⟩] }

theorem fairStates_isRun : IsRun fairMoves fairStates := by
  intro n
  match n with
  | 0 => rfl
  | 1 => rfl
  | 2 => rfl
  | n + 3 =>
    simp only [fairMoves, fairStates, takeMove, tickEvent, Host.Outcome.next.injEq]
    congr 1
    exact Nat.mod_add_mod (n + 1) 65536 1

theorem fairStates_fair : Fair fairMoves fairStates where
  mainWeak _ n h := absurd (h (n + 3) (by omega)).2 Bool.false_ne_true
  ticks n := ⟨n + 3, by omega, rfl⟩
  pollStrong n h := by
    obtain ⟨m, hm, hs, -⟩ := h (n + 3) (by omega)
    obtain ⟨k, rfl⟩ : ∃ k, m = k + 3 := ⟨m - 3, by omega⟩
    cases hs

theorem witness_EveryFairRunEndsEveryOperation :
    (fairStates 0).Inv ∧ IsRun fairMoves fairStates ∧ Fair fairMoves fairStates ∧ (fairStates 0).seq ≠ .idle ∧
      fairMoves 0 ≠ .reset :=
  ⟨benchAt_inv (r := { remoteReg with tmo := 1 }) (by decide) (by decide)
      ⟨⟨rfl, .inl rfl⟩, (by decide : 1 ≤ 1), (by decide : 1 < 65536)⟩,
    fairStates_isRun, fairStates_fair, by decide, by decide⟩

theorem witness_EveryScheduleIsAnAgenda : IsRun fairMoves fairStates := fairStates_isRun

theorem witness_EveryStepKeepsTheBankCanonical : bench.bankCanonical ∧ ∃ t, step bench = .next t := ⟨rfl, _, rfl⟩

theorem witness_NoStepChangesTheConfiguration : ∃ t, step bench = .next t := ⟨_, rfl⟩

/-- A step that writes each log in each way. -/
theorem witness_LogsAreAppendOnly :
    stepped (benchAt .rrPoll .divert remoteReg 3 [.reset]) (fun t => (t.busLog, t.persistLog)) =
        some ([.reset], [.reset]) ∧
      stepped (benchAt .rrDrive .divert remoteReg 0 [.main]) State.busLog = some [.drive] ∧
      stepped (benchAt .rrTx .divert remoteReg 0 [.main]) State.busLog = some [.byte 0] ∧
      stepped (benchAt .rrListen .divert remoteReg 0 [.main]) State.busLog = some [.listen] ∧
      stepped { bench with cmdPort := [[0x02, 4, 1, 50]] } (fun t => (t.persistLog, t.resLog)) =
        some ([.persist 4 [50]], [⟨0, []⟩]) := by decide

/-- A sequence that is no command, a command outside its domain, and one after a refusal. -/
theorem witness_RefusedIsNeverCleared :
    let s : State := { bench with cmdPort := [[0x00]] }
    (∃ t, step s = .next t ∧ t.refused ≠ s.refused) ∧
      (∃ t, step { s with cmdPort := [[0x07, 0, 127, 2, 1, 2]] } = .next t ∧ t.refused ≠ s.refused) ∧
      ∃ t, step { s with refused := true } = .next t := ⟨⟨_, rfl, by decide⟩, ⟨_, rfl, by decide⟩, _, rfl⟩

theorem witness_BusDirectionFollowsTheEngine :
    ∃ t, step (benchAt .rrDrive .divert remoteReg 0 [.main]) = .next t := ⟨_, rfl⟩

/-- A READ_REMOTE that ends in Timeout, and a SYNC_READ whose result equals the stale one. -/
theorem witness_BusErrorsComeFromReadRemoteOnly :
    let s := benchAt .rrExit .divert { remoteReg with rrst := .timeout } 0 [.main]
    let u := benchAt .srExit .divert batchReg 0 [.main]
    (s.Inv ∧ ∃ t, step s = .next t ∧ t.resValid = true ∧ t.res ≠ s.res ∧ t.res.status = 2) ∧
      (u.Inv ∧ ∃ t, step u = .next t ∧ t.resValid = true ∧ u.resValid = false ∧ t.res = u.res) :=
  ⟨⟨benchAt_inv (by decide) (by decide) ⟨⟨rfl, .inl rfl⟩, by decide, fun _ => rfl, by decide⟩, _, rfl, rfl, by decide,
      rfl⟩,
    benchAt_inv (by decide) (by decide) ⟨rfl, inBatch_bench _ _ _ _⟩, _, rfl, rfl, rfl, rfl⟩

end Sys2Proof.Tests
end

section
/-! Configuration time (00_scope.md R9, R10): `Config.valid`, a check the model runs, is the conjunction of R9's constraints.
The check reads the timeout's bank byte off the two ends of its bounds; R9 speaks of every legal value. The two agree because
the ends are legal values themselves, which needs `MIN <= MAX`. -/

namespace Sys2Proof.Machine

/-- The last constraint of R9, `1 <= timeout(BANK) < 2^TICK_W`: of a constant, and of a bank byte at its reset value and at
every value a write can leave there. -/
def TimeoutInRange (c : Config) : Prop :=
  (∀ n, c.timeout = .constant n → 1 ≤ n ∧ n < 2 ^ c.tickW) ∧
  ∀ a, c.timeout = .bankByte a →
    a < c.bankSize ∧ 1 ≤ (c.resetByte a).toNat ∧ (c.resetByte a).toNat < 2 ^ c.tickW ∧
      ∀ v, legal c a v = true → 1 ≤ v.toNat ∧ v.toNat < 2 ^ c.tickW

/-- Every entry of the bounds tables is a range that is not empty. -/
theorem bound_le {c : Config} {k : Nat} {lo hi : Byte} (h5 : c.min5 ≤ c.max5) (h6 : c.min6 ≤ c.max6)
    (h : c.bound k = some (lo, hi)) : lo ≤ hi := by
  unfold Config.bound at h
  split at h
  · cases h
  · split at h <;> cases h
    · decide
    · exact h5
    · exact h6
    · decide

theorem legal_below_startRW {c : Config} {a : Nat} {v : Byte} (ha : a < startRW) : legal c a v = false := if_pos ha

theorem legal_of_bound_none {c : Config} {a : Nat} {v : Byte} (hb : c.bound (a - startRW) = none) :
    legal c a v = false := by
  simp [legal, hb]

theorem legal_iff_of_bound {c : Config} {a : Nat} {v lo hi : Byte} (ha : ¬ a < startRW)
    (hb : c.bound (a - startRW) = some (lo, hi)) : legal c a v = true ↔ lo ≤ v ∧ v ≤ hi := by
  simp [legal, ha, hb]

/-- A range that is not empty keeps a constraint at its two ends iff it keeps it throughout. -/
theorem ends_in_range_iff {lo hi : Byte} {m : Nat} (h : lo ≤ hi) :
    (1 ≤ lo.toNat ∧ hi.toNat < m) ↔ ∀ v, lo ≤ v ∧ v ≤ hi → 1 ≤ v.toNat ∧ v.toNat < m := by
  constructor
  · rintro ⟨hlo, hhi⟩ v ⟨hv, hv'⟩
    exact ⟨hlo.trans hv, Nat.lt_of_le_of_lt hv' hhi⟩
  · intro hall
    exact ⟨(hall lo ⟨BitVec.le_refl lo, h⟩).1, (hall hi ⟨h, BitVec.le_refl hi⟩).2⟩

/-- The check of the bounds of bank byte `a` says that every legal value there is in range. -/
theorem boundCheck_iff_legal_in_range {c : Config} (h5 : c.min5 ≤ c.max5) (h6 : c.min6 ≤ c.max6) (a : Nat) :
    (a < startRW ∨ ∀ lo hi, c.bound (a - startRW) = some (lo, hi) → 1 ≤ lo.toNat ∧ hi.toNat < 2 ^ c.tickW) ↔
      ∀ v, legal c a v = true → 1 ≤ v.toNat ∧ v.toNat < 2 ^ c.tickW := by
  by_cases ha : a < startRW
  · simp [ha, legal_below_startRW ha]
  · cases hb : c.bound (a - startRW) with
    | none => simp [legal_of_bound_none hb]
    | some p =>
      obtain ⟨lo, hi⟩ := p
      simp only [legal_iff_of_bound ha hb, ← ends_in_range_iff (bound_le h5 h6 hb)]
      simp [ha]

theorem timeoutOk_constant {c : Config} {n : Nat} (h : c.timeout = .constant n) :
    c.timeoutOk = true ↔ 1 ≤ n ∧ n < 2 ^ c.tickW := by
  simp [Config.timeoutOk, h]

theorem timeoutOk_bankByte {c : Config} {a : Nat} (h : c.timeout = .bankByte a) :
    c.timeoutOk = true ↔
      (a < c.bankSize ∧ 1 ≤ (c.resetByte a).toNat ∧ (c.resetByte a).toNat < 2 ^ c.tickW) ∧
        (a < startRW ∨
          ∀ lo hi, c.bound (a - startRW) = some (lo, hi) → 1 ≤ lo.toNat ∧ hi.toNat < 2 ^ c.tickW) := by
  cases hb : c.bound (a - startRW) with
  | none => simp [Config.timeoutOk, h, hb]
  | some p =>
    obtain ⟨lo, hi⟩ := p
    simp [Config.timeoutOk, h, hb]

theorem timeoutOk_uninterpreted {c : Config} (h : c.timeout = .uninterpreted) : c.timeoutOk = true := by
  simp [Config.timeoutOk, h]

theorem timeoutOk_iff {c : Config} (h5 : c.min5 ≤ c.max5) (h6 : c.min6 ≤ c.max6) :
    c.timeoutOk = true ↔ TimeoutInRange c := by
  cases h : c.timeout with
  | constant n => simp [timeoutOk_constant h, TimeoutInRange, h]
  | bankByte a =>
    rw [timeoutOk_bankByte h, boundCheck_iff_legal_in_range h5 h6]
    simp [TimeoutInRange, h, and_assoc]
  | uninterpreted => simp [timeoutOk_uninterpreted h, TimeoutInRange, h]

/-- R9's constraints, in the table's order. -/
theorem valid_iff (c : Config) :
    c.valid = true ↔
      7 ≤ c.bankSize ∧ c.bankSize ≤ 256 ∧ c.boundLen = c.bankSize - startRW ∧
        c.min5 ≤ c.max5 ∧ c.min6 ≤ c.max6 ∧
        c.bridgeId.toNat ≤ 253 ∧ 253 < c.broadcastId.toNat ∧ c.errRange ≠ 0 ∧
        6 ≤ c.cap ∧ 1 ≤ c.tickW ∧ 1 ≤ c.flushThreshold ∧ 1 ≤ c.maxSyncIds ∧
        c.bankInitRW.length = c.bankSize - startRW ∧ TimeoutInRange c := by
  simp only [Config.valid, Bool.and_eq_true, decide_eq_true_eq, and_assoc]
  -- the timeout's clause is rewritten under the two `MIN <= MAX` that stand before it
  refine and_congr_right fun _ => and_congr_right fun _ => and_congr_right fun _ =>
    and_congr_right fun h5 => and_congr_right fun h6 => ?_
  rw [timeoutOk_iff h5 h6]

theorem configure_of_valid {c : Config} (h : c.valid = true) : State.configure c = .next (State.resetWith c) := if_pos h

theorem configure_of_not_valid {c : Config} (h : ¬ c.valid = true) :
    State.configure c = .refused .badConfiguration := if_neg h

theorem configure_refused_iff (c : Config) : State.configure c = .refused .badConfiguration ↔ ¬ c.valid = true := by
  constructor
  · intro h hv
    rw [configure_of_valid hv] at h
    cases h
  · exact configure_of_not_valid

/-- Settles O47: `State.configure` refuses iff `Config.valid` fails, and that is R9's constraints written out. -/
theorem badConfigurationIsRefused : Obligations.BadConfigurationIsRefused := by
  intro c
  constructor
  · by_cases h : c.valid = true
    · exact .inl (configure_of_valid h)
    · exact .inr (configure_of_not_valid h)
  · rw [configure_refused_iff, valid_iff]
    simp only [TimeoutInRange, BitVec.le_def, startRW, BitVec.toNat_ne, BitVec.ofNat_eq_ofNat, BitVec.toNat_zero]

end Sys2Proof.Machine
end

section
/-! What a step can do, said once (10_state.md R34, R38, R44): the outcomes of a command's first step, of IDLE, of each state
of an operation under way, and of one step of the machine, with the guard of each. The statements about single state elements
and the invariant are case splits over these. -/

namespace Sys2Proof.Machine

/-! ## A command's first step -/

theorem writeAccepted_iff (s : State) (a : Byte) (d : List Byte) :
    writeAccepted s.cfg a.toNat d = true ↔ s.WriteInBounds a d := by
  simp only [writeAccepted, Bool.and_eq_true, decide_eq_true_eq, legalAll_iff, and_assoc, State.WriteInBounds]

/-- What the first step of instruction `i` can do from the latched state `s`. Only RangeError is raised there, and with no
data. -/
inductive CommandStep (s : State) : Instr → State → Prop
  | answer (i : Instr) (code : ResultCode) (data : List Byte) (hcode : code = .ok ∨ code = .rangeError ∧ data = [])
      (hlen : data.length ≤ maxFrame) : CommandStep s i (s.finish code data)
  | write (a : Byte) (d : List Byte) (hin : s.WriteInBounds a d) :
      CommandStep s (.regWrite a d) ((persistWrite (memWrite s a.toNat d) a.toNat d).finish .ok [])
  | enterRemote (t a c : Byte) : CommandStep s (.readRemote t a c) (s.goto .rrEnter)
  | enterBatch (a c : Byte) (ids : List Byte) : CommandStep s (.syncRead a c ids) (s.goto .srEnter)

theorem CommandStep.raise (s : State) (i : Instr) : CommandStep s i (s.raise .rangeError) :=
  .answer i .rangeError [] (.inr ⟨rfl, rfl⟩) (Nat.zero_le _)

theorem CommandStep.ok (s : State) (i : Instr) {data : List Byte} (h : data.length ≤ maxFrame) :
    CommandStep s i (s.finish .ok data) :=
  .answer i .ok data (.inl rfl) h

theorem firstStep_commandStep {i : Instr} {s : State} (ha : admitted s.cfg i = true) :
    CommandStep (accepted i s) i (firstStep i (accepted i s)) := by
  cases i with
  | regRead a c =>
    simp only [firstStep, regReadStep]
    split
    · exact .raise _ _
    · exact .ok _ _ (by have := (accepted (.regRead a c) s).reg.c.isLt; simp only [memRead_length, maxFrame]; omega)
  | regWrite a d =>
    simp only [firstStep, regWriteStep]
    split
    · next hw => exact .write a d ((writeAccepted_iff _ a d).1 hw)
    · exact .raise _ _
  | encodeStatus e p =>
    have hp : p.length ≤ maxParams := (atMost_iff p maxParams).1 ha
    exact .ok _ _ (by rw [statusFrame, mkframe_length]; exact Nat.add_le_add_right hp 6)
  | encodeReadCmd t a c => exact .ok _ _ (by rw [encodeReadCommand, mkframe_length]; exact (by decide : 8 ≤ maxFrame))
  | validate r => exact .ok _ _ (by decide : 1 ≤ maxFrame)
  | readRemote t a c => exact .enterRemote t a c
  | syncRead a c ids => exact .enterBatch a c ids

/-! ## IDLE -/

/-- What the main sequencer's step in IDLE can do (R38). -/
inductive IdleStep (s : State) : State → Prop
  | nothing (hport : s.cmdPort = []) : IdleStep s s
  | rejected {bs : List Byte} {more : List (List Byte)} {why : Reject} (hport : s.cmdPort = bs :: more)
      (hdec : decode bs = .rejected why) : IdleStep s { s with cmdPort := more, refused := true }
  | refused {bs rest : List Byte} {more : List (List Byte)} {i : Instr} (hport : s.cmdPort = bs :: more)
      (hdec : decode bs = .ok i rest) (hadm : admitted s.cfg i = false) :
      IdleStep s { s with cmdPort := portAfter rest more, refused := true }
  | accepted {bs rest : List Byte} {more : List (List Byte)} {i : Instr} {t : State} (hport : s.cmdPort = bs :: more)
      (hdec : decode bs = .ok i rest) (hadm : admitted s.cfg i = true)
      (hcmd : CommandStep (accepted i { s with cmdPort := portAfter rest more }) i t) : IdleStep s t

theorem idleStep_of_step {s t : State} (hq : s.seq = .idle) (h : idleStep s = .next t) : IdleStep s t := by
  obtain ⟨hport, e⟩ | ⟨bs, more, why, hport, hdec, e⟩ | ⟨bs, more, i, rest, hport, hdec, e⟩ := idleStep_cases s <;>
    rw [e] at h
  · cases h; exact .nothing hport
  · cases h; exact .rejected hport hdec
  · obtain ⟨hne, -⟩ | ⟨-, hadm, e⟩ | ⟨-, hadm, e⟩ := exec_cases i { s with cmdPort := portAfter rest more }
    · exact absurd hq hne
    · rw [e] at h; cases h; exact .refused hport hdec hadm
    · rw [e] at h; cases h; exact .accepted hport hdec hadm (firstStep_commandStep hadm)

/-! ## An operation under way -/

/-- What the main sequencer's step outside IDLE can do (R34): the branches of the states of READ_REMOTE
(42_bus_transaction.md R120 to R128) and SYNC_READ (44_sync_read.md R149 to R155). -/
inductive BusyStep (s : State) : State → Prop
  | rrEnterOwner (hq : s.seq = .rrEnter) (ho : s.reg.owner = true) : BusyStep s ((s.setMode .divert).goto .rrReset)
  | rrEnterInner (hq : s.seq = .rrEnter) (ho : s.reg.owner = false) : BusyStep s (s.goto .rrReset)
  | rrReset (hq : s.seq = .rrReset) : BusyStep s (rrResetStep s)
  | rrDrive (hq : s.seq = .rrDrive) : BusyStep s (s.busDrive.goto .rrTx)
  | rrTx (b : Byte) (hq : s.seq = .rrTx) (hb : s.reg.txBuf[s.reg.i]? = some b) :
      BusyStep s (((s.busSend b).setReg { s.reg with i := s.reg.i + 1 }).goto
        (if s.reg.i + 1 = 8 then .rrListen else .rrTx))
  | rrListen (hq : s.seq = .rrListen) : BusyStep s (s.busListen.goto .rrArm)
  | rrArm (hq : s.seq = .rrArm) :
      BusyStep s ((s.setReg { s.reg with t0 := s.tick, tmo := s.timeoutNow }).goto .rrPoll)
  | rrPollDone (hq : s.seq = .rrPoll) (hd : s.reg.c.toNat + 6 ≤ s.capCnt) : BusyStep s (s.goto .rrCheck)
  | rrPollExpired (hq : s.seq = .rrPoll) (hd : s.capCnt < s.reg.c.toNat + 6) (he : s.reg.tmo ≤ s.elapsed) :
      BusyStep s ((s.setReg { s.reg with rrst := .timeout, rrData := [] }).goto .rrExit)
  | rrPollHeld (hq : s.seq = .rrPoll) (hd : s.capCnt < s.reg.c.toNat + 6) (he : s.elapsed < s.reg.tmo) : BusyStep s s
  | rrCheckValid (hq : s.seq = .rrCheck) (hv : validate s.response = true) :
      BusyStep s ((s.setReg { s.reg with rrst := .ok, rrData := (s.response.drop 5).take s.reg.c.toNat }).goto .rrExit)
  | rrCheckInvalid (hq : s.seq = .rrCheck) (hv : validate s.response = false) :
      BusyStep s ((s.setReg { s.reg with rrst := .checksumError, rrData := [] }).goto .rrExit)
  | rrExitOwner (hq : s.seq = .rrExit) (ho : s.reg.owner = true) :
      BusyStep s (((s.setMode .relay).result s.reg.rrst s.reg.rrData).goto .idle)
  | rrExitInner (hq : s.seq = .rrExit) (ho : s.reg.owner = false) :
      BusyStep s ((s.setReg
        { s.reg with
          slice := if s.reg.rrst = .ok then s.reg.rrData else List.replicate s.reg.c.toNat sentinel
          j := 0 }).goto .srEmit)
  | srEnter (hq : s.seq = .srEnter) : BusyStep s (srEnterStep s)
  | srHdr (b : Byte) (hq : s.seq = .srHdr) (hb : (syncHeader s.cfg s.reg.l)[s.reg.j]? = some b) :
      BusyStep s (((s.hostSendT b).setReg
        { s.reg with
          sum := if 2 ≤ s.reg.j then s.reg.sum + b else s.reg.sum
          j := s.reg.j + 1
          k := if s.reg.j + 1 = 5 then 0 else s.reg.k }).goto (if s.reg.j + 1 = 5 then .srNext else .srHdr))
  | srNextDevice (id : Byte) (hq : s.seq = .srNext) (hid : s.reg.ids[s.reg.k]? = some id) :
      BusyStep s ((s.setReg { s.reg with t := id }).goto .rrReset)
  | srNextDone (hq : s.seq = .srNext) (hid : s.reg.ids.length ≤ s.reg.k) : BusyStep s (s.goto .srCk)
  | srEmitByte (b : Byte) (hq : s.seq = .srEmit) (hj : s.reg.j < s.reg.c.toNat) (hb : s.reg.slice[s.reg.j]? = some b) :
      BusyStep s ((s.hostSendT b).setReg { s.reg with sum := s.reg.sum + b, j := s.reg.j + 1 })
  | srEmitDone (hq : s.seq = .srEmit) (hj : s.reg.c.toNat ≤ s.reg.j) :
      BusyStep s ((s.setReg { s.reg with k := s.reg.k + 1 }).goto .srNext)
  | srCk (hq : s.seq = .srCk) : BusyStep s ((s.hostSendT (byte 255 - s.reg.sum)).goto .srFlush)
  | srFlushPending (hq : s.seq = .srFlush) (hp : 0 < s.hostPend) : BusyStep s (s.hostFlush.goto .srExit)
  | srFlushNone (hq : s.seq = .srFlush) (hp : s.hostPend = 0) : BusyStep s (s.goto .srExit)
  | srExit (hq : s.seq = .srExit) : BusyStep s (((s.setMode .relay).result .ok []).goto .idle)

theorem BusyStep.seq_ne_idle {s t : State} (h : BusyStep s t) : s.seq ≠ .idle := by
  cases h <;> simp [*]

theorem busyStep_rrEnter {s : State} (hq : s.seq = .rrEnter) : BusyStep s (rrEnterStep s) := by
  unfold rrEnterStep
  split
  · next ho => exact .rrEnterOwner hq ho
  · next ho => exact .rrEnterInner hq (Bool.eq_false_of_not_eq_true ho)

theorem busyStep_rrTx {s t : State} (hq : s.seq = .rrTx) (h : rrTxStep s = .next t) : BusyStep s t := by
  unfold rrTxStep at h
  split at h <;> cases h
  next b hb => exact .rrTx b hq hb

theorem busyStep_rrPoll {s : State} (hq : s.seq = .rrPoll) : BusyStep s (rrPollStep s) := by
  unfold rrPollStep
  simp only [State.done, State.expired, decide_eq_true_eq]
  split
  · next hd => exact .rrPollDone hq hd
  · next hd =>
    split
    · next he => exact .rrPollExpired hq (Nat.lt_of_not_le hd) he
    · next he => exact .rrPollHeld hq (Nat.lt_of_not_le hd) (Nat.lt_of_not_le he)

theorem busyStep_rrCheck {s : State} (hq : s.seq = .rrCheck) : BusyStep s (rrCheckStep s) := by
  unfold rrCheckStep
  split
  · next hv => exact .rrCheckValid hq hv
  · next hv => exact .rrCheckInvalid hq (Bool.eq_false_of_not_eq_true hv)

theorem busyStep_rrExit {s : State} (hq : s.seq = .rrExit) : BusyStep s (rrExitStep s) := by
  unfold rrExitStep
  split
  · next ho => exact .rrExitOwner hq ho
  · next ho => exact .rrExitInner hq (Bool.eq_false_of_not_eq_true ho)

theorem busyStep_srHdr {s t : State} (hq : s.seq = .srHdr) (h : srHdrStep s = .next t) : BusyStep s t := by
  unfold srHdrStep at h
  split at h <;> cases h
  next b hb => exact .srHdr b hq hb

theorem busyStep_srNext {s : State} (hq : s.seq = .srNext) : BusyStep s (srNextStep s) := by
  unfold srNextStep
  split
  · next id hid => exact .srNextDevice id hq hid
  · next hid => exact .srNextDone hq (List.getElem?_eq_none_iff.1 hid)

theorem busyStep_srEmit {s t : State} (hq : s.seq = .srEmit) (h : srEmitStep s = .next t) : BusyStep s t := by
  unfold srEmitStep at h
  split at h
  · next hj =>
    split at h <;> cases h
    next b hb => exact .srEmitByte b hq hj hb
  · next hj => cases h; exact .srEmitDone hq (Nat.le_of_not_lt hj)

theorem busyStep_srFlush {s : State} (hq : s.seq = .srFlush) : BusyStep s (srFlushStep s) := by
  unfold srFlushStep
  split
  · next hp => exact .srFlushPending hq hp
  · next hp => exact .srFlushNone hq (Nat.eq_zero_of_not_pos hp)

theorem busyStep_of_mainStep {s t : State} (hne : s.seq ≠ .idle) (h : mainStep s = .next t) : BusyStep s t := by
  cases hq : s.seq with
  | idle => exact absurd hq hne
  | rrEnter => rw [mainStep_rrEnter hq] at h; cases h; exact busyStep_rrEnter hq
  | rrReset => rw [mainStep_rrReset hq] at h; cases h; exact .rrReset hq
  | rrDrive => rw [mainStep_rrDrive hq] at h; cases h; exact .rrDrive hq
  | rrTx => rw [mainStep_rrTx hq] at h; exact busyStep_rrTx hq h
  | rrListen => rw [mainStep_rrListen hq] at h; cases h; exact .rrListen hq
  | rrArm => rw [mainStep_rrArm hq] at h; cases h; exact .rrArm hq
  | rrPoll => rw [mainStep_rrPoll hq] at h; cases h; exact busyStep_rrPoll hq
  | rrCheck => rw [mainStep_rrCheck hq] at h; cases h; exact busyStep_rrCheck hq
  | rrExit => rw [mainStep_rrExit hq] at h; cases h; exact busyStep_rrExit hq
  | srEnter => rw [mainStep_srEnter hq] at h; cases h; exact .srEnter hq
  | srHdr => rw [mainStep_srHdr hq] at h; exact busyStep_srHdr hq h
  | srNext => rw [mainStep_srNext hq] at h; cases h; exact busyStep_srNext hq
  | srEmit => rw [mainStep_srEmit hq] at h; exact busyStep_srEmit hq h
  | srCk => rw [mainStep_srCk hq] at h; cases h; exact .srCk hq
  | srFlush => rw [mainStep_srFlush hq] at h; cases h; exact busyStep_srFlush hq
  | srExit => rw [mainStep_srExit hq] at h; cases h; exact .srExit hq

/-! ## One step of the machine -/

/-- What one step of the machine can do (R44): the main sequencer's, in IDLE or under way, or an event. -/
inductive StepCase (s : State) : State → Prop
  | idle {t : State} (hm : s.mainNext) (hq : s.seq = .idle) (hi : IdleStep (afterAgenda s) t) : StepCase s t
  | busy {t : State} (hm : s.mainNext) (hb : BusyStep (afterAgenda s) t) : StepCase s t
  | arrive (b : Byte) (hm : nextMove s = .arrive b) : StepCase s (arriveEvent b (afterAgenda s))
  | tick (hm : nextMove s = .tick) : StepCase s (tickEvent (afterAgenda s))
  | reset (hm : nextMove s = .reset) : StepCase s (resetEvent (afterAgenda s))
  | present (bs : List Byte) (hm : nextMove s = .present bs) : StepCase s (presentEvent bs (afterAgenda s))

theorem stepCase_of_step {s t : State} (h : step s = .next t) : StepCase s t := by
  cases hm : nextMove s <;> rw [step_of_nextMove hm, takeMove] at h
  case main =>
    by_cases hq : s.seq = .idle
    · rw [mainStep_idle (s := afterAgenda s) hq] at h
      exact .idle hm hq (idleStep_of_step hq h)
    · exact .busy hm (busyStep_of_mainStep hq h)
  case arrive b => cases h; exact .arrive b hm
  case tick => cases h; exact .tick hm
  case reset => cases h; exact .reset hm
  case present bs => cases h; exact .present bs hm

end Sys2Proof.Machine
end

section
/-! Who writes what (10_state.md R26 to R41): the frames of a command's first step, of IDLE, of a step under way and of an
arrival, and from them, element by element, the steps that can change it. -/

namespace Sys2Proof.Machine

/-! ## Frames -/

/-- A command's first step writes SEQ, the result port, the bank and the persistence log only. -/
theorem CommandStep.frame {s t : State} {i : Instr} (h : CommandStep s i t) :
    t = { s with
      bank := t.bank, persistLog := t.persistLog, seq := t.seq, res := t.res, resValid := t.resValid,
      resLog := t.resLog } := by
  cases h with
  | write a d hin => rw [persistWrite_eq, memWrite_eq]; rfl
  | answer | enterRemote | enterBatch => rfl

/-- A step in IDLE writes besides these the working registers, the port and REFUSED only. -/
theorem IdleStep.frame {s t : State} (h : IdleStep s t) :
    t = { s with
      bank := t.bank, persistLog := t.persistLog, seq := t.seq, res := t.res, resValid := t.resValid,
      resLog := t.resLog, reg := t.reg, cmdPort := t.cmdPort, refused := t.refused } := by
  cases h with
  | accepted hport hdec hadm hcmd => rw [hcmd.frame]; rfl
  | nothing | rejected | refused => rfl

/-- A step under way leaves the configuration, the bank, TICK, REFUSED, the persistence log and the port alone. -/
theorem BusyStep.frame {s t : State} (h : BusyStep s t) :
    t = { s with
      mode := t.mode, capCnt := t.capCnt, busDir := t.busDir, hostPend := t.hostPend, seq := t.seq, reg := t.reg,
      res := t.res, resValid := t.resValid, hostLog := t.hostLog, busLog := t.busLog, resLog := t.resLog } := by
  cases h with
  | srHdr | srEmitByte | srCk => rw [hostSendT_eq]; rfl
  | _ => rfl

theorem BusyStep.cfg {s t : State} (h : BusyStep s t) : t.cfg = s.cfg := by rw [h.frame]
theorem BusyStep.bank {s t : State} (h : BusyStep s t) : t.bank = s.bank := by rw [h.frame]
theorem BusyStep.tick {s t : State} (h : BusyStep s t) : t.tick = s.tick := by rw [h.frame]
theorem BusyStep.refused {s t : State} (h : BusyStep s t) : t.refused = s.refused := by rw [h.frame]
theorem BusyStep.persistLog {s t : State} (h : BusyStep s t) : t.persistLog = s.persistLog := by rw [h.frame]
theorem BusyStep.cmdPort {s t : State} (h : BusyStep s t) : t.cmdPort = s.cmdPort := by rw [h.frame]

theorem IdleStep.tick {s t : State} (h : IdleStep s t) : t.tick = s.tick := by rw [h.frame]
theorem IdleStep.busDir {s t : State} (h : IdleStep s t) : t.busDir = s.busDir := by rw [h.frame]
theorem IdleStep.busLog {s t : State} (h : IdleStep s t) : t.busLog = s.busLog := by rw [h.frame]
theorem IdleStep.hostLog {s t : State} (h : IdleStep s t) : t.hostLog = s.hostLog := by rw [h.frame]

theorem CommandStep.refused {s t : State} {i : Instr} (h : CommandStep s i t) : t.refused = s.refused := by rw [h.frame]

theorem arriveEvent_cfg (b : Byte) (s : State) : (arriveEvent b s).cfg = s.cfg := by rw [arriveEvent_eq]
theorem arriveEvent_bank (b : Byte) (s : State) : (arriveEvent b s).bank = s.bank := by rw [arriveEvent_eq]
theorem arriveEvent_busDir (b : Byte) (s : State) : (arriveEvent b s).busDir = s.busDir := by rw [arriveEvent_eq]
theorem arriveEvent_tick (b : Byte) (s : State) : (arriveEvent b s).tick = s.tick := by rw [arriveEvent_eq]
theorem arriveEvent_res (b : Byte) (s : State) : (arriveEvent b s).res = s.res := by rw [arriveEvent_eq]
theorem arriveEvent_resValid (b : Byte) (s : State) : (arriveEvent b s).resValid = s.resValid := by rw [arriveEvent_eq]
theorem arriveEvent_refused (b : Byte) (s : State) : (arriveEvent b s).refused = s.refused := by rw [arriveEvent_eq]
theorem arriveEvent_busLog (b : Byte) (s : State) : (arriveEvent b s).busLog = s.busLog := by rw [arriveEvent_eq]
theorem arriveEvent_persistLog (b : Byte) (s : State) : (arriveEvent b s).persistLog = s.persistLog := by
  rw [arriveEvent_eq]
theorem arriveEvent_resLog (b : Byte) (s : State) : (arriveEvent b s).resLog = s.resLog := by rw [arriveEvent_eq]
theorem arriveEvent_cmdPort (b : Byte) (s : State) : (arriveEvent b s).cmdPort = s.cmdPort := by rw [arriveEvent_eq]

/-! ## The command port -/

/-- Settles O6: IDLE's branch of the step, with the move off the agenda. -/
theorem stepRunsTheDecodedCommand : Obligations.StepRunsTheDecodedCommand := by
  intro s bs rest more i hq hm hport hdec
  rw [step_of_nextMove hm, takeMove, mainStep_idle (s := afterAgenda s) hq, idleStep, afterAgenda_cmdPort, hport]
  simp only [hdec, portAfter_eq]
  rfl

/-- Settles O7: exec holds a command while busy, and only a presented sequence changes the port then. -/
theorem busyBlockHoldsTheCommand : Obligations.BusyBlockHoldsTheCommand := by
  constructor
  · intro i s hne
    rw [exec_eq_accept, accept, if_neg hne]
  · intro s t hne h
    cases stepCase_of_step h with
    | idle hm hq hi => exact absurd hq hne
    | busy hm hb => exact ⟨by rw [hb.cmdPort]; exact List.prefix_rfl, fun _ => hb.cmdPort⟩
    | arrive b hm => exact ⟨by rw [arriveEvent_cmdPort]; exact List.prefix_rfl, fun _ => arriveEvent_cmdPort b _⟩
    | tick hm => exact ⟨List.prefix_rfl, fun _ => rfl⟩
    | reset hm => exact ⟨List.prefix_rfl, fun _ => rfl⟩
    | present bs hm => exact ⟨List.prefix_append _ _, fun hmain => absurd (hmain.symm.trans hm) Move.noConfusion⟩

theorem atMost_eq_false_iff (bs : List Byte) (n : Nat) : atMost bs n = false ↔ n < bs.length := by
  rw [← Bool.not_eq_true, atMost_iff, Nat.not_le]

theorem exec_not_admitted {i : Instr} {s : State} (hq : s.seq = .idle) (ha : admitted s.cfg i = false) :
    exec i s = .next { s with refused := true } := by
  simp [exec_eq_accept, accept, hq, ha, State.refuse]

/-- Settles O8: each of the three domains is left by a length, or a product, that is too big. -/
theorem outOfDomainCommandOnlySetsRefused : Obligations.OutOfDomainCommandOnlySetsRefused := by
  intro s hq
  refine ⟨fun e p hp => exec_not_admitted hq ?_, fun r hr => exec_not_admitted hq ?_,
    fun a c ids hd => exec_not_admitted hq ?_⟩
  · exact (atMost_eq_false_iff p maxParams).2 hp
  · exact (atMost_eq_false_iff r maxFrame).2 hr
  · simp only [admitted, Bool.and_eq_false_iff, atMost_eq_false_iff, decide_eq_false_iff_not, Nat.not_le]
    exact hd.elim .inr fun hn => .inl (.inr hn)

/-! ## TICK -/

/-- Settles O43: the tick event is the rule, and no other move but reset writes TICK. -/
theorem tickAdvancesTheCounterAlone : Obligations.TickAdvancesTheCounterAlone := by
  constructor
  · intro s hm
    rw [step_of_nextMove hm]
    rfl
  · intro s t hnt hnr h
    cases stepCase_of_step h with
    | idle hm hq hi => exact hi.tick
    | busy hm hb => exact hb.tick
    | arrive b hm => exact arriveEvent_tick b _
    | tick hm => exact absurd hm hnt
    | reset hm => exact absurd hm hnr
    | present bs hm => rfl

/-! ## BUSDIR and the bus log -/

/-- BUSDIR is written by `BusDrive` and `BusListen`, in RR_DRIVE and RR_LISTEN (42_bus_transaction.md R122, R124). -/
theorem BusyStep.busDir {s t : State} (h : BusyStep s t) :
    t.busDir = if s.seq = .rrDrive then .drive else if s.seq = .rrListen then .listen else s.busDir := by
  cases h with
  | srHdr | srEmitByte | srCk => rw [hostSendT_eq]; simp [*]
  | rrReset hq => simp [hq, rrResetStep]
  | srEnter hq => simp [hq, srEnterStep]
  | _ => simp [*]

/-- Settles O59: a step under way writes BUSDIR in its two states, reset to Listen, and no other move writes it. -/
theorem busDirectionFollowsTheEngine : Obligations.BusDirectionFollowsTheEngine := by
  intro s t h
  cases stepCase_of_step h with
  | idle hm hq hi => simpa [show nextMove s = .main from hm, hq] using hi.busDir
  | busy hm hb =>
    rw [hb.busDir]
    simp only [show nextMove s = .main from hm, afterAgenda_seq, afterAgenda_busDir, true_and, reduceCtorEq, if_false]
    congr
  | arrive b hm => simpa [hm] using arriveEvent_busDir b (afterAgenda s)
  | tick hm => simp [hm, tickEvent]
  | reset hm => simp [hm, resetEvent]
  | present bs hm => simp [hm, presentEvent]

theorem BusyStep.busLog_cases {s t : State} (h : BusyStep s t) :
    t.busLog = s.busLog ∨ (s.seq = .rrDrive ∧ t.busLog = s.busLog ++ [.drive]) ∨
      (s.seq = .rrTx ∧ ∃ b, s.reg.txBuf[s.reg.i]? = some b ∧ t.busLog = s.busLog ++ [.byte b]) ∨
      (s.seq = .rrListen ∧ t.busLog = s.busLog ++ [.listen]) := by
  cases h with
  | rrDrive hq => exact .inr (.inl ⟨hq, rfl⟩)
  | rrTx b hq hb => exact .inr (.inr (.inl ⟨hq, b, hb, rfl⟩))
  | rrListen hq => exact .inr (.inr (.inr ⟨hq, rfl⟩))
  | srHdr | srEmitByte | srCk => left; rw [hostSendT_eq]; rfl
  | _ => exact .inl rfl

/-! ## The host log -/

theorem hostSendT_hostLog_prefix (s : State) (b : Byte) : s.hostLog <+: (s.hostSendT b).hostLog := by
  rcases hostSendT_cases s b with ⟨-, e⟩ | ⟨-, e⟩ <;> rw [e]
  · exact ⟨[.byte b] ++ [.flush], by simp⟩
  · exact List.prefix_append _ _

theorem BusyStep.hostLog_prefix {s t : State} (h : BusyStep s t) : s.hostLog <+: t.hostLog := by
  cases h with
  | srHdr | srEmitByte | srCk => exact hostSendT_hostLog_prefix s _
  | srFlushPending => exact List.prefix_append _ _
  | _ => exact List.prefix_rfl

theorem arriveEvent_hostLog_prefix (b : Byte) (s : State) : s.hostLog <+: (arriveEvent b s).hostLog := by
  unfold arriveEvent
  split
  · exact hostSendT_hostLog_prefix s b
  · rcases capture_cases s b with ⟨-, e⟩ | ⟨-, e⟩ <;> rw [e]

/-! ## The persistence log and the bank -/

theorem CommandStep.persistLog_cases {s t : State} {i : Instr} (h : CommandStep s i t) :
    t.persistLog = s.persistLog ∨ ∃ a d, i = .regWrite a d ∧ d ≠ [] ∧ s.WriteInBounds a d ∧
      t.persistLog = s.persistLog ++ [.persist a.toNat d] := by
  cases h with
  | write a d hin =>
    rw [persistWrite_eq, memWrite_eq]
    by_cases hd : d = []
    · exact .inl (by simp [hd])
    · exact .inr ⟨a, d, rfl, hd, hin, by simp [hd]⟩
  | answer | enterRemote | enterBatch => exact .inl rfl

theorem IdleStep.persistLog_cases {s t : State} (h : IdleStep s t) :
    t.persistLog = s.persistLog ∨ ∃ bs more a d rest, s.cmdPort = bs :: more ∧ decode bs = .ok (.regWrite a d) rest ∧
      d ≠ [] ∧ s.WriteInBounds a d ∧ t.persistLog = s.persistLog ++ [.persist a.toNat d] := by
  cases h with
  | accepted hport hdec hadm hcmd =>
    refine hcmd.persistLog_cases.imp_right ?_
    rintro ⟨a, d, rfl, hd, hin, hp⟩
    exact ⟨_, _, a, d, _, hport, hdec, hd, hin, hp⟩
  | nothing | rejected | refused => exact .inl rfl

theorem bankAt_congr {s t : State} (hc : t.cfg = s.cfg) (hb : t.bank = s.bank) (x : Nat) : t.bankAt x = s.bankAt x := by
  rw [State.bankAt, State.bankAt, hc, hb]

theorem CommandStep.bankAt_cases {s t : State} {i : Instr} (h : CommandStep s i t) (hc : s.bankCanonical) (x : Nat) :
    t.bankAt x = s.bankAt x ∨
      ∃ a d, i = .regWrite a d ∧ s.WriteInBounds a d ∧ a.toNat ≤ x ∧ x < a.toNat + d.length := by
  cases h with
  | write a d hin =>
    by_cases hx : a.toNat ≤ x ∧ x < a.toNat + d.length
    · exact .inr ⟨a, d, rfl, hin, hx⟩
    · left
      calc ((persistWrite (memWrite s a.toNat d) a.toNat d).finish .ok []).bankAt x
          = (memWrite s a.toNat d).bankAt x := by rw [persistWrite_eq]; rfl
        _ = s.bankAt x := by rw [memWrite_bankAt a.toNat d hc, if_neg hx]
  | answer | enterRemote | enterBatch => exact .inl rfl

/-- Settles O13: by cases on the step; the bank's range is `memWrite_bankAt`'s. -/
theorem onlyRegWriteAndResetChangeTheBank : Obligations.OnlyRegWriteAndResetChangeTheBank := by
  intro s t x hcan h hx
  cases stepCase_of_step h with
  | idle hm hq hi =>
    cases hi with
    | accepted hport hdec hadm hcmd =>
      obtain hsame | ⟨a, d, rfl, hin, hrange⟩ := hcmd.bankAt_cases hcan x
      · exact absurd hsame hx
      · exact .inr ⟨hm, hq, _, _, a, d, _, hport, hdec, hin, hrange⟩
    | nothing | rejected | refused => exact absurd rfl hx
  | busy hm hb => exact absurd (bankAt_congr hb.cfg hb.bank x) hx
  | arrive b hm => exact absurd (bankAt_congr (arriveEvent_cfg b _) (arriveEvent_bank b _) x) hx
  | reset hm => exact .inl hm
  | tick | present => exact absurd rfl hx

/-! ## REFUSED -/

/-- Settles O58: IDLE's two refusals write REFUSED, and set it. -/
theorem refusedIsNeverCleared : Obligations.RefusedIsNeverCleared := by
  intro s t h
  have keep (e : t.refused = s.refused) {P : Prop} : (s.refused = true → t.refused = true) ∧ (t.refused ≠ s.refused → P) :=
    ⟨fun hs => e.trans hs, fun hne => absurd e hne⟩
  cases stepCase_of_step h with
  | idle hm hq hi =>
    cases hi with
    | rejected hport hdec => exact ⟨fun _ => rfl, fun _ => ⟨hm, hq, _, _, hport, .inl ⟨_, hdec⟩⟩⟩
    | refused hport hdec hadm => exact ⟨fun _ => rfl, fun _ => ⟨hm, hq, _, _, hport, .inr ⟨_, _, hdec, hadm⟩⟩⟩
    | accepted hport hdec hadm hcmd => exact keep hcmd.refused
    | nothing => exact keep rfl
  | busy hm hb => exact keep hb.refused
  | arrive b hm => exact keep (arriveEvent_refused b _)
  | tick | reset | present => exact keep rfl

/-! ## The result port -/

/-- The result port and the sequence of results in `t` are as in `s`, but for RES_VALID, which may be cleared. -/
def State.NoResultSince (s t : State) : Prop :=
  t.res = s.res ∧ t.resLog = s.resLog ∧ (s.resValid = false → t.resValid = false)

/-- From `s` to `t` the result `code, data` was delivered. -/
def State.Delivered (s t : State) (code : ResultCode) (data : List Byte) : Prop :=
  t.res = ⟨code.code, data⟩ ∧ t.resValid = true ∧ t.resLog = s.resLog ++ [t.res]

theorem CommandStep.result_cases {s t : State} {i : Instr} (h : CommandStep s i t) (hv : s.resValid = false) :
    (t.res = s.res ∧ t.resLog = s.resLog ∧ t.resValid = false) ∨
      ∃ code data, s.Delivered t code data ∧ (code = .ok ∨ code = .rangeError ∧ data = []) := by
  cases h with
  | answer i code data hcode => exact .inr ⟨code, data, ⟨rfl, rfl, rfl⟩, hcode⟩
  | write a d hin => exact .inr ⟨.ok, [], ⟨rfl, rfl, by rw [persistWrite_eq, memWrite_eq]; rfl⟩, .inl rfl⟩
  | enterRemote | enterBatch => exact .inl ⟨rfl, rfl, hv⟩

theorem IdleStep.result_cases {s t : State} (h : IdleStep s t) :
    s.NoResultSince t ∨ ∃ code data, s.Delivered t code data ∧ (code = .ok ∨ code = .rangeError ∧ data = []) := by
  cases h with
  | accepted hport hdec hadm hcmd =>
    exact (hcmd.result_cases rfl).imp_left fun ⟨hres, hlog, hv⟩ => ⟨hres, hlog, fun _ => hv⟩
  | nothing | rejected | refused => exact .inl ⟨rfl, rfl, id⟩

theorem BusyStep.result_cases {s t : State} (h : BusyStep s t) :
    (s.NoResultSince t ∧ t.resValid = s.resValid) ∨
      (s.seq = .rrExit ∧ s.reg.owner = true ∧ s.Delivered t s.reg.rrst s.reg.rrData) ∨
      (s.seq = .srExit ∧ s.Delivered t .ok []) := by
  cases h with
  | rrExitOwner hq ho => exact .inr (.inl ⟨hq, ho, rfl, rfl, rfl⟩)
  | srExit hq => exact .inr (.inr ⟨hq, rfl, rfl, rfl⟩)
  | srHdr | srEmitByte | srCk => left; rw [hostSendT_eq]; exact ⟨⟨rfl, rfl, id⟩, rfl⟩
  | _ => exact .inl ⟨⟨rfl, rfl, id⟩, rfl⟩

/-! ## The logs -/

theorem StepCase.hostLog_prefix {s t : State} (h : StepCase s t) : s.hostLog <+: t.hostLog := by
  cases h with
  | idle hm hq hi => rw [hi.hostLog]; exact List.prefix_rfl
  | busy hm hb => exact hb.hostLog_prefix
  | arrive b hm => exact arriveEvent_hostLog_prefix b (afterAgenda s)
  | reset hm => exact List.prefix_append _ _
  | tick | present => exact List.prefix_rfl

theorem StepCase.busLog_cases {s t : State} (h : StepCase s t) :
    t.busLog = s.busLog ∨
      (nextMove s = .reset ∧ t.busLog = s.busLog ++ [.reset]) ∨
      (s.mainNext ∧ s.seq = .rrDrive ∧ t.busLog = s.busLog ++ [.drive]) ∨
      (s.mainNext ∧ s.seq = .rrTx ∧ ∃ b, s.reg.txBuf[s.reg.i]? = some b ∧ t.busLog = s.busLog ++ [.byte b]) ∨
      (s.mainNext ∧ s.seq = .rrListen ∧ t.busLog = s.busLog ++ [.listen]) := by
  cases h with
  | idle hm hq hi => exact .inl hi.busLog
  | busy hm hb =>
    obtain hsame | hdrive | htx | hlisten := hb.busLog_cases
    · exact .inl hsame
    · exact .inr (.inr (.inl ⟨hm, hdrive⟩))
    · exact .inr (.inr (.inr (.inl ⟨hm, htx⟩)))
    · exact .inr (.inr (.inr (.inr ⟨hm, hlisten⟩)))
  | arrive b hm => exact .inl (arriveEvent_busLog b _)
  | reset hm => exact .inr (.inl ⟨hm, rfl⟩)
  | tick | present => exact .inl rfl

theorem StepCase.persistLog_cases {s t : State} (h : StepCase s t) :
    t.persistLog = s.persistLog ∨
      (nextMove s = .reset ∧ t.persistLog = s.persistLog ++ [.reset]) ∨
      (s.mainNext ∧ s.seq = .idle ∧ ∃ bs more a d rest, s.cmdPort = bs :: more ∧
        decode bs = .ok (.regWrite a d) rest ∧ d ≠ [] ∧ s.WriteInBounds a d ∧
        t.persistLog = s.persistLog ++ [.persist a.toNat d]) := by
  cases h with
  | idle hm hq hi => exact hi.persistLog_cases.imp_right fun hw => .inr ⟨hm, hq, hw⟩
  | busy hm hb => exact .inl hb.persistLog
  | arrive b hm => exact .inl (arriveEvent_persistLog b _)
  | reset hm => exact .inr (.inl ⟨hm, rfl⟩)
  | tick | present => exact .inl rfl

theorem StepCase.resLog_cases {s t : State} (h : StepCase s t) :
    (t.resLog = s.resLog ∧ (s.resValid = false → t.resValid = false)) ∨
      (t.resLog = s.resLog ++ [t.res] ∧ t.resValid = true ∧ s.mainNext) := by
  have none_since (h : (afterAgenda s).NoResultSince t) :
      t.resLog = s.resLog ∧ (s.resValid = false → t.resValid = false) := h.2
  cases h with
  | idle hm hq hi =>
    obtain hno | ⟨code, data, ⟨-, hv, hlog⟩, -⟩ := hi.result_cases
    · exact .inl (none_since hno)
    · exact .inr ⟨hlog, hv, hm⟩
  | busy hm hb =>
    obtain ⟨hno, -⟩ | ⟨-, -, -, hv, hlog⟩ | ⟨-, -, hv, hlog⟩ := hb.result_cases
    · exact .inl (none_since hno)
    · exact .inr ⟨hlog, hv, hm⟩
    · exact .inr ⟨hlog, hv, hm⟩
  | arrive b hm => exact .inl ⟨arriveEvent_resLog b _, fun hv => (arriveEvent_resValid b _).trans hv⟩
  | reset hm => exact .inl ⟨rfl, fun _ => rfl⟩
  | tick | present => exact .inl ⟨rfl, id⟩

/-- Settles O57: each log by cases on the step. -/
theorem logsAreAppendOnly : Obligations.LogsAreAppendOnly := by
  intro s t h
  have hcase := stepCase_of_step h
  exact ⟨hcase.hostLog_prefix, hcase.busLog_cases, hcase.persistLog_cases, hcase.resLog_cases⟩

end Sys2Proof.Machine
end

section
/-! The invariant (10_state.md R46): it holds at power-on, every step keeps it, and it gives the rule's clauses. One lemma for
each shared operation, event and state of the sequencer; a step's case then cites its own. -/

namespace Sys2Proof.Machine

/-! ## What SEQ's clause says in each state -/

theorem seqOk_idle {s : State} (hq : s.seq = .idle) : s.SeqOk ↔ s.mode = .relay := by simp [State.SeqOk, hq]
theorem seqOk_rrEnter {s : State} (hq : s.seq = .rrEnter) : s.SeqOk ↔ s.mode = .relay ∧ s.reg.owner = true := by
  simp [State.SeqOk, hq]
theorem seqOk_rrReset {s : State} (hq : s.seq = .rrReset) : s.SeqOk ↔ s.InTransaction := by simp [State.SeqOk, hq]
theorem seqOk_rrDrive {s : State} (hq : s.seq = .rrDrive) : s.SeqOk ↔ s.InTransaction ∧ s.reg.i = 0 := by
  simp [State.SeqOk, hq]
theorem seqOk_rrTx {s : State} (hq : s.seq = .rrTx) : s.SeqOk ↔ s.InTransaction ∧ s.reg.i < 8 := by simp [State.SeqOk, hq]
theorem seqOk_rrListen {s : State} (hq : s.seq = .rrListen) : s.SeqOk ↔ s.InTransaction := by simp [State.SeqOk, hq]
theorem seqOk_rrArm {s : State} (hq : s.seq = .rrArm) : s.SeqOk ↔ s.InTransaction := by simp [State.SeqOk, hq]
theorem seqOk_rrPoll {s : State} (hq : s.seq = .rrPoll) :
    s.SeqOk ↔ s.InTransaction ∧ 1 ≤ s.reg.tmo ∧ s.reg.tmo < 2 ^ s.cfg.tickW := by
  simp [State.SeqOk, hq]
theorem seqOk_rrCheck {s : State} (hq : s.seq = .rrCheck) :
    s.SeqOk ↔ s.InTransaction ∧ s.reg.c.toNat + 6 ≤ s.capCnt := by
  simp [State.SeqOk, hq]
theorem seqOk_rrExit {s : State} (hq : s.seq = .rrExit) :
    s.SeqOk ↔ s.InTransaction ∧ (s.reg.rrst = .ok → s.reg.rrData.length = s.reg.c.toNat) ∧
      (s.reg.rrst ≠ .ok → s.reg.rrData = []) ∧ s.reg.rrst ≠ .rangeError := by
  simp [State.SeqOk, hq]
theorem seqOk_srEnter {s : State} (hq : s.seq = .srEnter) : s.SeqOk ↔ s.mode = .relay ∧ s.InBatch := by
  simp [State.SeqOk, hq]
theorem seqOk_srHdr {s : State} (hq : s.seq = .srHdr) : s.SeqOk ↔ s.mode = .divert ∧ s.InBatch ∧ s.reg.j < 5 := by
  simp [State.SeqOk, hq]
theorem seqOk_srNext {s : State} (hq : s.seq = .srNext) :
    s.SeqOk ↔ s.mode = .divert ∧ s.InBatch ∧ s.reg.k ≤ s.reg.ids.length := by
  simp [State.SeqOk, hq]
theorem seqOk_srEmit {s : State} (hq : s.seq = .srEmit) :
    s.SeqOk ↔ s.mode = .divert ∧ s.InBatch ∧ s.reg.k < s.reg.ids.length ∧ s.reg.slice.length = s.reg.c.toNat ∧
      s.reg.j ≤ s.reg.c.toNat := by
  simp [State.SeqOk, hq]
theorem seqOk_srCk {s : State} (hq : s.seq = .srCk) : s.SeqOk ↔ s.mode = .divert ∧ s.InBatch := by simp [State.SeqOk, hq]
theorem seqOk_srFlush {s : State} (hq : s.seq = .srFlush) : s.SeqOk ↔ s.mode = .divert ∧ s.InBatch := by
  simp [State.SeqOk, hq]
theorem seqOk_srExit {s : State} (hq : s.seq = .srExit) : s.SeqOk ↔ s.mode = .divert ∧ s.InBatch := by
  simp [State.SeqOk, hq]

/-- A transaction that does not own the mode is a batch's, for device `K`. -/
theorem State.InTransaction.batch {s : State} (h : s.InTransaction) (ho : s.reg.owner = false) :
    s.InBatch ∧ s.reg.k < s.reg.ids.length :=
  h.2.resolve_left (by simp [ho])

/-- SEQ's clause bounds CAPCNT from below only. -/
theorem State.SeqOk.capture {s : State} {buf : List Byte} {n : Nat} (h : s.SeqOk) (hn : s.capCnt ≤ n) :
    { s with capBuf := buf, capCnt := n }.SeqOk := by
  cases hq : s.seq with
  | rrCheck =>
    obtain ⟨htr, hcap⟩ := (seqOk_rrCheck hq).1 h
    exact (seqOk_rrCheck rfl).2 ⟨htr, hcap.trans hn⟩
  | _ => simp only [State.SeqOk, hq] at h; exact h

/-! ## Power-on -/

theorem resetWith_inv {c : Config} (hc : c.valid = true) : (State.resetWith c).Inv where
  cfg := hc
  bankForm := resetWith_bankCanonical c
  bankLegal := fun cell hmem => absurd hmem List.not_mem_nil
  capBuf := List.length_replicate
  capCnt := Nat.zero_le _
  tick := Nat.mod_lt _ (Nat.two_pow_pos _)
  hostPend := by obtain ⟨-, -, -, -, -, hflush, -⟩ := valid_bounds hc; exact hflush
  noResult := fun _ => rfl
  lastResult := fun hv => absurd hv Bool.false_ne_true
  widths :=
    { data := Nat.zero_le _
      ids := Nat.zero_le _
      txBuf := rfl
      i := Nat.zero_le _
      t0 := Nat.two_pow_pos _
      rrData := Nat.zero_le _
      slice := Nat.zero_le _
      resData := Nat.zero_le _
      status := fun hv => absurd hv Bool.false_ne_true }
  seq := rfl

/-- Settles O48: the block at hand has a valid configuration too (`device_valid`). -/
theorem invariantHoldsAtReset : Obligations.InvariantHoldsAtReset :=
  ⟨fun _ hc => resetWith_inv hc, resetWith_inv device_valid⟩

/-- Settles O46: the values of `State.resetWith`, read off. -/
theorem powerOnHasTheResetValues : Obligations.PowerOnHasTheResetValues := by
  refine ⟨rfl, device_valid, fun c hc => ⟨configure_of_valid hc, rfl, rfl, rfl, rfl, fun k hk => ?_,
    rfl, rfl, rfl, rfl, rfl, rfl, rfl, rfl, rfl, rfl, rfl⟩⟩
  obtain ⟨-, -, -, -, -, -, -, hlen, -⟩ := valid_bounds hc
  have hk' : k < c.bankInitRW.length := by simp only [hlen, startRW]; omega
  have hread : (State.resetWith c).bankAt (4 + k) = c.bankInitRW.getD k 0 := by rw [Nat.add_comm]; rfl
  rw [hread, List.getD_eq_getElem _ _ hk', List.getElem?_eq_getElem hk']

/-! ## What the invariant does not read, the events and the shared operations -/

/-- The invariant reads neither BUSDIR, REFUSED, the three logs, the port, the agenda nor the draws. -/
theorem State.Inv.of_eq {s t : State} (h : s.Inv)
    (he : t = { s with
      busDir := t.busDir, refused := t.refused, hostLog := t.hostLog, busLog := t.busLog, persistLog := t.persistLog,
      cmdPort := t.cmdPort, agenda := t.agenda, draws := t.draws }) : t.Inv := by
  rw [he]
  exact { h with widths := { h.widths with }, seq := h.seq }

theorem afterAgenda_inv {s : State} (h : s.Inv) : (afterAgenda s).Inv := h.of_eq rfl

theorem presentEvent_inv {s : State} (bs : List Byte) (h : s.Inv) : (presentEvent bs s).Inv := h.of_eq rfl

theorem tickEvent_inv {s : State} (h : s.Inv) : (tickEvent s).Inv :=
  { h with tick := Nat.mod_lt _ (Nat.two_pow_pos _), widths := { h.widths with }, seq := h.seq }

theorem hostSendT_inv {s : State} (b : Byte) (h : s.Inv) : (s.hostSendT b).Inv := by
  obtain ⟨-, -, -, -, -, hflush, -⟩ := valid_bounds h.cfg
  have hpend := hostSendT_hostPend s b hflush
  rw [hostSendT_eq]
  exact { h with hostPend := hpend, widths := { h.widths with }, seq := h.seq }

theorem hostFlush_inv {s : State} (h : s.Inv) : s.hostFlush.Inv := by
  obtain ⟨-, -, -, -, -, hflush, -⟩ := valid_bounds h.cfg
  exact { h with hostPend := hflush, widths := { h.widths with }, seq := h.seq }

theorem capture_inv {s : State} (b : Byte) (h : s.Inv) : (s.capture b).Inv := by
  rcases capture_cases s b with ⟨hlt, e⟩ | ⟨-, e⟩ <;> rw [e]
  · exact
      { h with
        capBuf := List.length_set.trans h.capBuf
        capCnt := hlt
        widths := { h.widths with }
        seq := h.seq.capture (Nat.le_succ _) }
  · exact h

theorem arriveEvent_inv {s : State} (b : Byte) (h : s.Inv) : (arriveEvent b s).Inv := by
  unfold arriveEvent
  split
  · exact hostSendT_inv b h
  · exact capture_inv b h

theorem resetEvent_inv {s : State} (h : s.Inv) : (resetEvent s).Inv where
  cfg := h.cfg
  bankForm := rfl
  bankLegal := fun cell hmem => absurd hmem List.not_mem_nil
  capBuf := freeFill_length _ _ _
  capCnt := Nat.zero_le _
  tick := Nat.mod_lt _ (Nat.two_pow_pos _)
  hostPend := by obtain ⟨-, -, -, -, -, hflush, -⟩ := valid_bounds h.cfg; exact hflush
  noResult := fun _ => rfl
  lastResult := fun hv => absurd hv Bool.false_ne_true
  widths :=
    { data := List.length_take_le _ _
      ids := List.length_take_le _ _
      txBuf := freeFill_length _ _ _
      i := Nat.le_of_lt_succ (Nat.mod_lt _ (by decide))
      t0 := Nat.mod_lt _ (Nat.two_pow_pos _)
      rrData := List.length_take_le _ _
      slice := List.length_take_le _ _
      resData := List.length_take_le _ _
      status := fun hv => absurd hv Bool.false_ne_true }
  seq := rfl

/-- A write of SEQ with no valid result asks for SEQ's clause anew, and for nothing else. -/
theorem goto_inv {s : State} {q : Seq} (h : s.Inv) (hv : s.resValid = false) (hseq : (s.goto q).SeqOk) :
    (s.goto q).Inv :=
  { h with noResult := fun _ => hv, widths := { h.widths with }, seq := hseq }

theorem ResultCode.code_le (e : ResultCode) : e.code.toNat ≤ 3 := by cases e <;> decide

/-- The result port's clauses after a result, delivered in IDLE and Relay. -/
theorem result_inv {s : State} {code : ResultCode} {data : List Byte} (h : s.Inv) (hlen : data.length ≤ maxFrame) :
    (((s.setMode .relay).result code data).goto .idle).Inv :=
  { h with
    noResult := fun hne => absurd rfl hne
    lastResult := fun _ => List.getLast?_concat
    widths := { h.widths with resData := hlen, status := fun _ => code.code_le }
    seq := rfl }

theorem finish_inv {s : State} {code : ResultCode} {data : List Byte} (h : s.Inv) (hq : s.seq = .idle)
    (hlen : data.length ≤ maxFrame) : (s.finish code data).Inv := by
  have hmode : s.setMode .relay = s := by rw [← (seqOk_idle hq).1 h.seq]; rfl
  have hres := result_inv (code := code) h hlen
  rwa [hmode] at hres

/-! ## Commands -/

theorem latch_widths {s : State} {i : Instr} (h : s.WidthsOk) (ha : admitted s.cfg i = true) :
    (accepted i s).WidthsOk := by
  have hstatus : (accepted i s).resValid = true → (accepted i s).res.status.toNat ≤ 3 :=
    fun hv => absurd hv Bool.false_ne_true
  cases i with
  | regWrite a d =>
    have hd : d.length ≤ 255 := (atMost_iff d 255).1 ha
    exact { h with data := hd.trans (by decide), status := hstatus }
  | encodeStatus e p =>
    have hp : p.length ≤ maxParams := (atMost_iff p maxParams).1 ha
    exact { h with data := hp.trans (by decide), status := hstatus }
  | validate r => exact { h with data := (atMost_iff r maxFrame).1 ha, status := hstatus }
  | syncRead a c ids =>
    simp only [admitted, Bool.and_eq_true, atMost_iff] at ha
    obtain ⟨⟨-, hids⟩, -⟩ := ha
    exact { h with ids := hids, status := hstatus }
  | regRead | encodeReadCmd | readRemote => exact { h with status := hstatus }

theorem accepted_inv {s : State} {i : Instr} (h : s.Inv) (hq : s.seq = .idle) (ha : admitted s.cfg i = true) :
    (accepted i s).Inv :=
  { h with
    noResult := fun _ => rfl
    lastResult := fun hv => absurd hv Bool.false_ne_true
    widths := latch_widths h.widths ha
    seq := (seqOk_idle (s := accepted i s) hq).2 ((seqOk_idle hq).1 h.seq) }

theorem memWrite_inv {s : State} {a : Byte} {d : List Byte} (h : s.Inv) (hin : s.WriteInBounds a d) :
    (memWrite s a.toNat d).Inv := by
  have hform := memWrite_bankCanonical a.toNat d h.bankForm
  have hlegal : ∀ cell ∈ (memWrite s a.toNat d).bank, legal s.cfg cell.1 cell.2 = true := by
    intro cell hmem
    obtain hold | ⟨k, v, hk, rfl⟩ := memWrite_mem hmem
    · exact h.bankLegal cell hold
    · exact hin.2.2 k v hk
  rw [memWrite_eq] at hform ⊢
  exact { h with bankForm := hform, bankLegal := hlegal, widths := { h.widths with }, seq := h.seq }

theorem persistWrite_inv {s : State} (a : Nat) (d : List Byte) (h : s.Inv) : (persistWrite s a d).Inv := by
  rw [persistWrite_eq]
  exact h.of_eq rfl

/-- The declared length of an admitted SYNC_READ fits its byte (44_sync_read.md R146). -/
theorem accepted_inBatch {s : State} {a c : Byte} {ids : List Byte} (ha : admitted s.cfg (.syncRead a c ids) = true) :
    (accepted (.syncRead a c ids) s).InBatch := by
  simp only [admitted, Bool.and_eq_true, decide_eq_true_eq] at ha
  exact ⟨rfl, ha.2⟩

theorem commandStep_inv {s t : State} {i : Instr} (h : s.Inv) (hq : s.seq = .idle) (ha : admitted s.cfg i = true)
    (hc : CommandStep (accepted i s) i t) : t.Inv := by
  have hacc := accepted_inv h hq ha
  have hmode : s.mode = .relay := (seqOk_idle hq).1 h.seq
  cases hc with
  | answer i code data hcode hlen => exact finish_inv hacc hq hlen
  | write a d hin =>
    have hidle : (persistWrite (memWrite (accepted (.regWrite a d) s) a.toNat d) a.toNat d).seq = .idle := by
      rw [persistWrite_eq, memWrite_eq]; exact hq
    exact finish_inv (persistWrite_inv _ _ (memWrite_inv hacc hin)) hidle (Nat.zero_le _)
  | enterRemote t a c => exact goto_inv hacc rfl ((seqOk_rrEnter rfl).2 ⟨hmode, rfl⟩)
  | enterBatch a c ids => exact goto_inv hacc rfl ((seqOk_srEnter rfl).2 ⟨hmode, accepted_inBatch ha⟩)

theorem idleStep_inv {s t : State} (h : s.Inv) (hq : s.seq = .idle) (hi : IdleStep s t) : t.Inv := by
  cases hi with
  | nothing => exact h
  | rejected | refused => exact h.of_eq rfl
  | @accepted bs rest more i t hport hdec hadm hcmd =>
    exact commandStep_inv (s := { s with cmdPort := portAfter rest more }) (h.of_eq rfl) hq hadm hcmd

end Sys2Proof.Machine
end

section
/-! Every step keeps the invariant (10_state.md R46): the steps under way, state by state, and the statements that follow from
the invariant. -/

namespace Sys2Proof.Machine

/-! ## The steps of a transaction -/

theorem rrEnterOwner_inv {s : State} (h : s.Inv) (hv : s.resValid = false) (ho : s.reg.owner = true) :
    ((s.setMode .divert).goto .rrReset).Inv :=
  { h with
    noResult := fun _ => hv
    widths := { h.widths with }
    seq := (seqOk_rrReset rfl).2 ⟨rfl, .inl ho⟩ }

theorem rrReset_inv {s : State} (h : s.Inv) (hq : s.seq = .rrReset) (hv : s.resValid = false) : (rrResetStep s).Inv :=
  { h with
    capCnt := Nat.zero_le _
    noResult := fun _ => hv
    widths := { h.widths with txBuf := mkframe_length _ _ _, i := Nat.zero_le _ }
    seq := (seqOk_rrDrive rfl).2 ⟨(seqOk_rrReset hq).1 h.seq, rfl⟩ }

theorem rrDrive_inv {s : State} (h : s.Inv) (hq : s.seq = .rrDrive) (hv : s.resValid = false) :
    (s.busDrive.goto .rrTx).Inv := by
  obtain ⟨htr, hi⟩ := (seqOk_rrDrive hq).1 h.seq
  exact
    { h with
      noResult := fun _ => hv
      widths := { h.widths with }
      seq := (seqOk_rrTx rfl).2 ⟨htr, hi.trans_lt (by decide)⟩ }

theorem rrTx_inv {s : State} (b : Byte) (h : s.Inv) (hq : s.seq = .rrTx) (hv : s.resValid = false) :
    (((s.busSend b).setReg { s.reg with i := s.reg.i + 1 }).goto
      (if s.reg.i + 1 = 8 then .rrListen else .rrTx)).Inv := by
  obtain ⟨htr, hi⟩ := (seqOk_rrTx hq).1 h.seq
  refine { h with noResult := fun _ => hv, widths := { h.widths with i := hi }, seq := ?_ }
  split
  · exact (seqOk_rrListen rfl).2 htr
  · next hne => exact (seqOk_rrTx rfl).2 ⟨htr, Nat.lt_of_le_of_ne hi hne⟩

theorem rrListen_inv {s : State} (h : s.Inv) (hq : s.seq = .rrListen) (hv : s.resValid = false) :
    (s.busListen.goto .rrArm).Inv :=
  { h with
    noResult := fun _ => hv
    widths := { h.widths with }
    seq := (seqOk_rrArm rfl).2 ((seqOk_rrListen hq).1 h.seq) }

theorem rrArm_inv {s : State} (h : s.Inv) (hq : s.seq = .rrArm) (hv : s.resValid = false) :
    ((s.setReg { s.reg with t0 := s.tick, tmo := s.timeoutNow }).goto .rrPoll).Inv :=
  { h with
    noResult := fun _ => hv
    widths := { h.widths with t0 := h.tick }
    seq := (seqOk_rrPoll rfl).2 ⟨(seqOk_rrArm hq).1 h.seq, timeoutNow_range h⟩ }

theorem rrPollDone_inv {s : State} (h : s.Inv) (hq : s.seq = .rrPoll) (hv : s.resValid = false)
    (hd : s.reg.c.toNat + 6 ≤ s.capCnt) : (s.goto .rrCheck).Inv := by
  obtain ⟨htr, -⟩ := (seqOk_rrPoll hq).1 h.seq
  exact goto_inv h hv ((seqOk_rrCheck rfl).2 ⟨htr, hd⟩)

/-- RR_EXIT is entered with an outcome other than RangeError, its data being `C` bytes if it is OK and else none. -/
theorem enterExit_inv {s : State} {code : ResultCode} {data : List Byte} (h : s.Inv) (hv : s.resValid = false)
    (htr : s.InTransaction) (hok : code = .ok → data.length = s.reg.c.toNat) (hbad : code ≠ .ok → data = [])
    (hrange : code ≠ .rangeError) : ((s.setReg { s.reg with rrst := code, rrData := data }).goto .rrExit).Inv := by
  have hlen : data.length ≤ 255 := by
    by_cases hc : code = .ok
    · have := s.reg.c.isLt
      rw [hok hc]
      omega
    · rw [hbad hc]
      exact Nat.zero_le _
  exact
    { h with
      noResult := fun _ => hv
      widths := { h.widths with rrData := hlen }
      seq := (seqOk_rrExit rfl).2 ⟨htr, hok, hbad, hrange⟩ }

theorem rrPollExpired_inv {s : State} (h : s.Inv) (hq : s.seq = .rrPoll) (hv : s.resValid = false) :
    ((s.setReg { s.reg with rrst := .timeout, rrData := [] }).goto .rrExit).Inv := by
  obtain ⟨htr, -⟩ := (seqOk_rrPoll hq).1 h.seq
  exact enterExit_inv h hv htr (fun hc => absurd hc (by decide)) (fun _ => rfl) (by decide)

theorem rrCheckValid_inv {s : State} (h : s.Inv) (hq : s.seq = .rrCheck) (hv : s.resValid = false) :
    ((s.setReg { s.reg with rrst := .ok, rrData := (s.response.drop 5).take s.reg.c.toNat }).goto .rrExit).Inv := by
  obtain ⟨htr, hcap⟩ := (seqOk_rrCheck hq).1 h.seq
  have hbuf : s.reg.c.toNat + 6 ≤ s.capBuf.length := by rw [h.capBuf]; exact hcap.trans h.capCnt
  have hlen : ((s.response.drop 5).take s.reg.c.toNat).length = s.reg.c.toNat := by
    simp only [State.response, List.length_take, List.length_drop]
    omega
  exact enterExit_inv h hv htr (fun _ => hlen) (fun hc => absurd rfl hc) (by decide)

theorem rrCheckInvalid_inv {s : State} (h : s.Inv) (hq : s.seq = .rrCheck) (hv : s.resValid = false) :
    ((s.setReg { s.reg with rrst := .checksumError, rrData := [] }).goto .rrExit).Inv := by
  obtain ⟨htr, -⟩ := (seqOk_rrCheck hq).1 h.seq
  exact enterExit_inv h hv htr (fun hc => absurd hc (by decide)) (fun _ => rfl) (by decide)

theorem rrExitInner_inv {s : State} (h : s.Inv) (hq : s.seq = .rrExit) (hv : s.resValid = false)
    (ho : s.reg.owner = false) :
    ((s.setReg
      { s.reg with
        slice := if s.reg.rrst = .ok then s.reg.rrData else List.replicate s.reg.c.toNat sentinel
        j := 0 }).goto .srEmit).Inv := by
  obtain ⟨htr, hok, -, -⟩ := (seqOk_rrExit hq).1 h.seq
  obtain ⟨hbatch, hk⟩ := htr.batch ho
  have hlen : (if s.reg.rrst = .ok then s.reg.rrData else List.replicate s.reg.c.toNat sentinel).length =
      s.reg.c.toNat := by
    split
    · next hc => exact hok hc
    · exact List.length_replicate
  exact
    { h with
      noResult := fun _ => hv
      widths := { h.widths with slice := hlen.trans_le (Nat.le_of_lt_succ s.reg.c.isLt) }
      seq := (seqOk_srEmit rfl).2 ⟨htr.1, hbatch, hk, hlen, Nat.zero_le _⟩ }

/-! ## The steps of a batch -/

theorem srEnter_inv {s : State} (h : s.Inv) (hq : s.seq = .srEnter) (hv : s.resValid = false) : (srEnterStep s).Inv := by
  obtain ⟨-, hbatch⟩ := (seqOk_srEnter hq).1 h.seq
  exact
    { h with
      noResult := fun _ => hv
      widths := { h.widths with }
      seq := (seqOk_srHdr rfl).2 ⟨rfl, hbatch, (by decide : 0 < 5)⟩ }

theorem srHdr_inv {s : State} (b sum : Byte) (h : s.Inv) (hq : s.seq = .srHdr) (hv : s.resValid = false) :
    (((s.hostSendT b).setReg
      { s.reg with
        sum := sum
        j := s.reg.j + 1
        k := if s.reg.j + 1 = 5 then 0 else s.reg.k }).goto (if s.reg.j + 1 = 5 then .srNext else .srHdr)).Inv := by
  obtain ⟨hmode, hbatch, hj⟩ := (seqOk_srHdr hq).1 h.seq
  have hpend := (hostSendT_inv b h).hostPend
  rw [hostSendT_eq] at hpend ⊢
  refine { h with hostPend := hpend, noResult := fun _ => hv, widths := { h.widths with }, seq := ?_ }
  split
  · exact (seqOk_srNext rfl).2 ⟨hmode, hbatch, Nat.zero_le _⟩
  · next hne => exact (seqOk_srHdr rfl).2 ⟨hmode, hbatch, Nat.lt_of_le_of_ne hj hne⟩

theorem srNextDevice_inv {s : State} (id : Byte) (h : s.Inv) (hq : s.seq = .srNext) (hv : s.resValid = false)
    (hid : s.reg.ids[s.reg.k]? = some id) : ((s.setReg { s.reg with t := id }).goto .rrReset).Inv := by
  obtain ⟨hmode, hbatch, -⟩ := (seqOk_srNext hq).1 h.seq
  obtain ⟨hk, -⟩ := List.getElem?_eq_some_iff.1 hid
  exact
    { h with
      noResult := fun _ => hv
      widths := { h.widths with }
      seq := (seqOk_rrReset rfl).2 ⟨hmode, .inr ⟨hbatch, hk⟩⟩ }

theorem srNextDone_inv {s : State} (h : s.Inv) (hq : s.seq = .srNext) (hv : s.resValid = false) : (s.goto .srCk).Inv := by
  obtain ⟨hmode, hbatch, -⟩ := (seqOk_srNext hq).1 h.seq
  exact goto_inv h hv ((seqOk_srCk rfl).2 ⟨hmode, hbatch⟩)

theorem srEmitByte_inv {s : State} (b : Byte) (h : s.Inv) (hq : s.seq = .srEmit) (hv : s.resValid = false)
    (hj : s.reg.j < s.reg.c.toNat) :
    ((s.hostSendT b).setReg { s.reg with sum := s.reg.sum + b, j := s.reg.j + 1 }).Inv := by
  obtain ⟨hmode, hbatch, hk, hlen, -⟩ := (seqOk_srEmit hq).1 h.seq
  have hpend := (hostSendT_inv b h).hostPend
  rw [hostSendT_eq] at hpend ⊢
  exact
    { h with
      hostPend := hpend
      noResult := fun _ => hv
      widths := { h.widths with }
      seq := (seqOk_srEmit (by exact hq)).2 ⟨hmode, hbatch, hk, hlen, hj⟩ }

theorem srEmitDone_inv {s : State} (h : s.Inv) (hq : s.seq = .srEmit) (hv : s.resValid = false) :
    ((s.setReg { s.reg with k := s.reg.k + 1 }).goto .srNext).Inv := by
  obtain ⟨hmode, hbatch, hk, -, -⟩ := (seqOk_srEmit hq).1 h.seq
  exact
    { h with
      noResult := fun _ => hv
      widths := { h.widths with }
      seq := (seqOk_srNext rfl).2 ⟨hmode, hbatch, hk⟩ }

theorem srCk_inv {s : State} (b : Byte) (h : s.Inv) (hq : s.seq = .srCk) (hv : s.resValid = false) :
    ((s.hostSendT b).goto .srFlush).Inv := by
  have hsent := hostSendT_inv b h
  have hck := (seqOk_srCk hq).1 h.seq
  rw [hostSendT_eq] at hsent ⊢
  exact goto_inv hsent hv ((seqOk_srFlush rfl).2 hck)

theorem srFlushPending_inv {s : State} (h : s.Inv) (hq : s.seq = .srFlush) (hv : s.resValid = false) :
    (s.hostFlush.goto .srExit).Inv :=
  goto_inv (hostFlush_inv h) hv ((seqOk_srExit rfl).2 ((seqOk_srFlush hq).1 h.seq))

theorem srFlushNone_inv {s : State} (h : s.Inv) (hq : s.seq = .srFlush) (hv : s.resValid = false) :
    (s.goto .srExit).Inv :=
  goto_inv h hv ((seqOk_srExit rfl).2 ((seqOk_srFlush hq).1 h.seq))

/-! ## Every step -/

theorem busyStep_inv {s t : State} (h : s.Inv) (hb : BusyStep s t) : t.Inv := by
  have hv : s.resValid = false := h.noResult hb.seq_ne_idle
  cases hb with
  | rrEnterOwner hq ho => exact rrEnterOwner_inv h hv ho
  | rrEnterInner hq ho =>
    -- the invariant's RR_ENTER belongs to a READ_REMOTE, which owns the mode
    obtain ⟨-, howner⟩ := (seqOk_rrEnter hq).1 h.seq
    exact absurd (howner.symm.trans ho) Bool.noConfusion
  | rrReset hq => exact rrReset_inv h hq hv
  | rrDrive hq => exact rrDrive_inv h hq hv
  | rrTx b hq hb => exact rrTx_inv b h hq hv
  | rrListen hq => exact rrListen_inv h hq hv
  | rrArm hq => exact rrArm_inv h hq hv
  | rrPollDone hq hd => exact rrPollDone_inv h hq hv hd
  | rrPollExpired hq hd he => exact rrPollExpired_inv h hq hv
  | rrPollHeld hq hd he => exact h
  | rrCheckValid hq hvalid => exact rrCheckValid_inv h hq hv
  | rrCheckInvalid hq hvalid => exact rrCheckInvalid_inv h hq hv
  | rrExitOwner hq ho => exact result_inv h (h.widths.rrData.trans (by decide))
  | rrExitInner hq ho => exact rrExitInner_inv h hq hv ho
  | srEnter hq => exact srEnter_inv h hq hv
  | srHdr b hq hb => exact srHdr_inv b _ h hq hv
  | srNextDevice id hq hid => exact srNextDevice_inv id h hq hv hid
  | srNextDone hq hid => exact srNextDone_inv h hq hv
  | srEmitByte b hq hj hb => exact srEmitByte_inv b h hq hv hj
  | srEmitDone hq hj => exact srEmitDone_inv h hq hv
  | srCk hq => exact srCk_inv _ h hq hv
  | srFlushPending hq hp => exact srFlushPending_inv h hq hv
  | srFlushNone hq hp => exact srFlushNone_inv h hq hv
  | srExit hq => exact result_inv h (Nat.zero_le _)

/-- Settles O49: by cases on the step, each case a lemma about its operation, event or sequencer state. -/
theorem everyStepKeepsTheInvariant : Obligations.EveryStepKeepsTheInvariant := by
  intro s t h hstep
  have hs := afterAgenda_inv h
  cases stepCase_of_step hstep with
  | idle hm hq hi => exact idleStep_inv hs hq hi
  | busy hm hb => exact busyStep_inv hs hb
  | arrive b hm => exact arriveEvent_inv b hs
  | tick hm => exact tickEvent_inv hs
  | reset hm => exact resetEvent_inv hs
  | present bs hm => exact presentEvent_inv bs hs

/-! ## What follows from the invariant -/

/-- A legal cell is at a read/write address, so addresses 0 to 3 read as their reset contents. -/
theorem State.Inv.bankAt_readOnly {s : State} (h : s.Inv) {a : Nat} (ha : a < startRW) :
    s.bankAt a = s.cfg.resetByte a := by
  obtain hread | hmem := Memory.read_cases (dflt := s.cfg.resetByte) s.bank a
  · exact hread
  · obtain ⟨hrw, -⟩ := legal_address (h.bankLegal _ hmem)
    exact absurd ha (Nat.not_lt.2 hrw)

theorem State.Inv.seq_idle {s : State} (h : s.Inv) (hv : s.resValid = true) : s.seq = .idle := by
  by_contra hne
  exact Bool.false_ne_true ((h.noResult hne).symm.trans hv)

/-- Settles O50: R46's clauses, from SEQ's in IDLE, RR_ENTER and SR_ENTER and from the bank's legal cells. -/
theorem invariantGivesTheRulesClauses : Obligations.InvariantGivesTheRulesClauses := by
  intro s h
  refine ⟨fun hq => (seqOk_idle hq).1 h.seq, fun hdivert => ?_, h.capCnt, fun a ha => h.bankAt_readOnly ha, h.hostPend,
    fun hv => ⟨h.seq_idle hv, h.lastResult hv⟩⟩
  have not_relay (hrelay : s.mode = .relay) : False := Mode.noConfusion (hrelay.symm.trans hdivert)
  exact ⟨fun hq => not_relay ((seqOk_idle hq).1 h.seq), fun ⟨hq, _⟩ => not_relay ((seqOk_rrEnter hq).1 h.seq).1,
    fun hq => not_relay ((seqOk_srEnter hq).1 h.seq).1⟩

/-- Settles O14: the next state meets the invariant. -/
theorem readOnlyPrefixKeepsItsResetBytes : Obligations.ReadOnlyPrefixKeepsItsResetBytes := by
  intro s t h hstep
  have ht := everyStepKeepsTheInvariant s t h hstep
  exact ⟨ht.bankAt_readOnly (by decide), ht.bankAt_readOnly (by decide), ht.bankAt_readOnly (by decide),
    ht.bankAt_readOnly (by decide)⟩

/-- Settles O44: a valid result is there in IDLE only, where an accepted command alone clears RES_VALID. -/
theorem resultStaysUntilTheNextCommand : Obligations.ResultStaysUntilTheNextCommand := by
  intro s t h hstep hv hchange
  have same_absurd {P : Prop} (hres : t.res = s.res) (hvalid : t.resValid = s.resValid) : P :=
    hchange.elim (fun hf => absurd (hf.symm.trans (hvalid.trans hv)) Bool.false_ne_true) (absurd hres)
  cases stepCase_of_step hstep with
  | idle hm hq hi =>
    cases hi with
    | accepted hport hdec hadm hcmd => exact .inr ⟨hm, hq, _, _, _, _, hport, hdec, hadm⟩
    | nothing | rejected | refused => exact same_absurd rfl rfl
  | busy hm hb => exact absurd (h.seq_idle hv) hb.seq_ne_idle
  | arrive b hm => exact same_absurd (arriveEvent_res b _) (arriveEvent_resValid b _)
  | reset hm => exact .inl hm
  | tick | present => exact same_absurd rfl rfl

/-! ## Where each status comes from -/

/-- A result delivered by a command's first step: OK, or RangeError with no data. -/
theorem State.Delivered.single_step {s t : State} {code : ResultCode} {data : List Byte} (h : s.Delivered t code data)
    (hcode : code = .ok ∨ code = .rangeError ∧ data = []) :
    t.res.status = 0 ∨ t.res.status = 1 ∧ t.res.data = [] := by
  rw [h.1]
  obtain rfl | ⟨rfl, rfl⟩ := hcode
  · exact .inl rfl
  · exact .inr ⟨rfl, rfl⟩

/-- A result delivered by RR_EXIT: not RangeError, and with no data unless OK. -/
theorem State.Delivered.transaction {s t : State} (h : s.Delivered t s.reg.rrst s.reg.rrData) (hs : s.Inv)
    (hq : s.seq = .rrExit) :
    t.res.status = 0 ∨ (t.res.status = 2 ∨ t.res.status = 3) ∧ t.res.data = [] := by
  obtain ⟨-, -, hbad, hrange⟩ := (seqOk_rrExit hq).1 hs.seq
  rw [h.1]
  cases hc : s.reg.rrst with
  | ok => exact .inl rfl
  | rangeError => exact absurd hc hrange
  | timeout => exact .inr ⟨.inl rfl, hbad (by simp [hc])⟩
  | checksumError => exact .inr ⟨.inr rfl, hbad (by simp [hc])⟩

/-- Settles O60: the steps that deliver a result are a command's first step, RR_EXIT's and SR_EXIT's. -/
theorem busErrorsComeFromReadRemoteOnly : Obligations.BusErrorsComeFromReadRemoteOnly := by
  intro s t h hstep hv hchange
  have same_absurd {P : Prop} (hres : t.res = s.res) (hvalid : s.resValid = false → t.resValid = false) : P :=
    hchange.elim (fun hf => absurd ((hvalid hf).symm.trans hv) Bool.false_ne_true) (absurd hres)
  cases stepCase_of_step hstep with
  | idle hm hq hi =>
    refine ⟨hm, ?_⟩
    obtain ⟨hres, -, hvalid⟩ | ⟨code, data, hdel, hcode⟩ := hi.result_cases
    · exact same_absurd hres hvalid
    · obtain hzero | ⟨hone, hdata⟩ := hdel.single_step hcode
      · simp [hzero]
      · simp [hone, hdata, hq]
  | busy hm hb =>
    refine ⟨hm, ?_⟩
    obtain ⟨⟨hres, -, hvalid⟩, -⟩ | ⟨hq, ho, hdel⟩ | ⟨-, hres, -⟩ := hb.result_cases
    · exact same_absurd hres hvalid
    · rw [afterAgenda_seq] at hq
      rw [afterAgenda_reg] at ho
      obtain hzero | ⟨hcode, hdata⟩ := hdel.transaction (afterAgenda_inv h) hq
      · simp [hzero]
      · obtain htwo | hthree := hcode
        · simp [htwo, hdata, hq, ho]
        · simp [hthree, hdata, hq, ho]
    · simp [hres, ResultCode.code]
  | arrive b hm => exact same_absurd (arriveEvent_res b _) (arriveEvent_resValid b (afterAgenda s)).trans
  | reset hm => exact absurd hv Bool.false_ne_true
  | tick | present => exact same_absurd rfl id

end Sys2Proof.Machine
end

section
/-! Schedules and agendas (10_state.md R25, R44): a run under any schedule is the machine's run from the agenda of its moves. -/

namespace Sys2Proof.Machine

/-- One step with move `m` at the head of the agenda is move `m`, with the agenda after it. -/
theorem step_withAgenda_cons (s : State) (m : Move) (ms : List Move) :
    step (s.withAgenda (m :: ms)) = mapNext (·.withAgenda ms) (takeMove m s) := by
  rw [step_of_nextMove (m := m) rfl]
  exact takeMove_withAgenda ms m s

theorem IsRun.tail {σ : Nat → Move} {ρ : Nat → State} (h : IsRun σ ρ) : IsRun (σ ∘ Nat.succ) (ρ ∘ Nat.succ) :=
  fun n => h (n + 1)

theorem run_withAgenda (n : Nat) {σ : Nat → Move} {ρ : Nat → State} (h : IsRun σ ρ) :
    Host.Core.run Sys2Proof.core n ((ρ 0).withAgenda ((List.range n).map σ)) = .next ((ρ n).withAgenda []) := by
  induction n generalizing σ ρ with
  | zero => rfl
  | succ n ih =>
    have hstep : Sys2Proof.core.step ((ρ 0).withAgenda ((List.range (n + 1)).map σ)) =
        .next ((ρ 1).withAgenda ((List.range n).map (σ ∘ Nat.succ))) := by
      rw [List.range_succ_eq_map, List.map_cons, List.map_map]
      exact (step_withAgenda_cons (ρ 0) (σ 0) _).trans (by rw [h 0]; rfl)
    simp only [Host.Core.run, hstep]
    exact ih h.tail

/-- Settles O54, by induction on the number of moves. -/
theorem everyScheduleIsAnAgenda : Obligations.EveryScheduleIsAnAgenda := by
  intro σ ρ h n
  exact run_withAgenda n h

end Sys2Proof.Machine
end

section
/-! Storage over every step (20_memory.md R48, R57, R64, R65, R68): the configuration, the bank's form, the capture buffer and
its count, and what the events leave alone. -/

namespace Sys2Proof.Machine

/-! ## The configuration -/

theorem StepCase.cfg {s t : State} (h : StepCase s t) : t.cfg = s.cfg := by
  cases h with
  | idle hm hq hi => rw [hi.frame]; rfl
  | busy hm hb => exact hb.cfg
  | arrive b hm => exact arriveEvent_cfg b _
  | tick | reset | present => rfl

/-- Settles O56: no case of the step writes the parameters. -/
theorem noStepChangesTheConfiguration : Obligations.NoStepChangesTheConfiguration :=
  fun _ _ h => (stepCase_of_step h).cfg

/-! ## The bank's form -/

/-- The canonical form reads the configuration and the bank alone. -/
theorem State.bankCanonical.congr {s t : State} (h : s.bankCanonical) (hc : t.cfg = s.cfg) (hb : t.bank = s.bank) :
    t.bankCanonical := by
  rw [State.bankCanonical, hc, hb]
  exact h

theorem CommandStep.bankCanonical {s t : State} {i : Instr} (h : CommandStep s i t) (hs : s.bankCanonical) :
    t.bankCanonical := by
  cases h with
  | write a d hin =>
    have hw : (memWrite s a.toNat d).bankCanonical := memWrite_bankCanonical a.toNat d hs
    rw [persistWrite_eq]
    exact hw
  | answer | enterRemote | enterBatch => exact hs

theorem IdleStep.bankCanonical {s t : State} (h : IdleStep s t) (hs : s.bankCanonical) : t.bankCanonical := by
  cases h with
  | accepted hport hdec hadm hcmd => exact hcmd.bankCanonical hs
  | nothing | rejected | refused => exact hs

/-- Settles O55: REG_WRITE writes the bank through `memWrite`, which keeps the form, reset empties the list, and no other move
writes it. -/
theorem everyStepKeepsTheBankCanonical : Obligations.EveryStepKeepsTheBankCanonical := by
  intro s t hs h
  cases stepCase_of_step h with
  | idle hm hq hi => exact hi.bankCanonical hs
  | busy hm hb => exact hs.congr hb.cfg hb.bank
  | arrive b hm => exact hs.congr (arriveEvent_cfg b _) (arriveEvent_bank b _)
  | reset hm => rfl
  | tick | present => exact hs

/-! ## The capture buffer -/

theorem IdleStep.capCnt {s t : State} (h : IdleStep s t) : t.capCnt = s.capCnt := by rw [h.frame]
theorem IdleStep.capBuf {s t : State} (h : IdleStep s t) : t.capBuf = s.capBuf := by rw [h.frame]

theorem BusyStep.capBuf {s t : State} (h : BusyStep s t) : t.capBuf = s.capBuf := by rw [h.frame]

/-- RR_RESET clears the count (42_bus_transaction.md R121), and no other step under way writes it. -/
theorem BusyStep.capCnt_cases {s t : State} (h : BusyStep s t) :
    (s.seq = .rrReset ∧ t.capCnt = 0) ∨ t.capCnt = s.capCnt := by
  cases h with
  | rrReset hq => exact .inl ⟨hq, rfl⟩
  | srHdr | srEmitByte | srCk => right; rw [hostSendT_eq]; rfl
  | _ => exact .inr rfl

/-- An arrival leaves the capture buffer alone, or, in Divert, puts its byte at the count (43_bridge_mode.md R141, R142). -/
theorem arriveEvent_capture_cases (b : Byte) (s : State) :
    ((arriveEvent b s).capCnt = s.capCnt ∧ (arriveEvent b s).capBuf = s.capBuf) ∨
      (s.mode = .divert ∧ (arriveEvent b s).capCnt = s.capCnt + 1 ∧
        (arriveEvent b s).capBuf = s.capBuf.set s.capCnt b) := by
  unfold arriveEvent
  split
  · rw [hostSendT_eq]
    exact .inl ⟨rfl, rfl⟩
  · next hd =>
    obtain ⟨-, e⟩ | ⟨-, e⟩ := capture_cases s b <;> rw [e]
    · exact .inr ⟨hd, rfl, rfl⟩
    · exact .inl ⟨rfl, rfl⟩

/-- Settles O34: the count's writers are RR_RESET, reset and an arrival in Divert, and the arrival writes the byte at the count
only. -/
theorem captureBufferIsAppendOnly : Obligations.CaptureBufferIsAppendOnly := by
  intro s t h
  cases stepCase_of_step h with
  | idle hm hq hi => exact ⟨.inr (.inl hi.capCnt), fun _ i _ => congrArg (·[i]?) hi.capBuf⟩
  | busy hm hb =>
    refine ⟨?_, fun _ i _ => congrArg (·[i]?) hb.capBuf⟩
    obtain ⟨hq, hzero⟩ | hkeep := hb.capCnt_cases
    · exact .inl ⟨hzero, .inr ⟨hm, hq⟩⟩
    · exact .inr (.inl hkeep)
  | arrive b hm =>
    obtain ⟨hcnt, hbuf⟩ | ⟨hd, hcnt, hbuf⟩ := arriveEvent_capture_cases b (afterAgenda s)
    · exact ⟨.inr (.inl hcnt), fun _ i _ => congrArg (·[i]?) hbuf⟩
    · refine ⟨.inr (.inr ⟨hcnt, hd, b, hm⟩), fun _ i hi => ?_⟩
      rw [hbuf]
      exact List.getElem?_set_ne hi.symm
  | reset hm => exact ⟨.inl ⟨rfl, .inl hm⟩, fun hne => absurd hm hne⟩
  | tick | present => exact ⟨.inr (.inl rfl), fun _ _ _ => rfl⟩

/-! ## The events -/

/-- The sequences a move puts on the command port. -/
def Move.presented : Move → List (List Byte)
  | .present bs => [bs]
  | .main | .arrive _ | .tick | .reset => []

/-- A move that is neither the main sequencer's nor reset's writes the host stream, the capture buffer and TICK only, and puts
what it presents behind the command port. -/
theorem takeMove_event_frame {m : Move} (s : State) (hmain : m ≠ .main) (hreset : m ≠ .reset) :
    ∃ t, takeMove m s = .next t ∧
      t = { s with
        hostLog := t.hostLog, hostPend := t.hostPend, capBuf := t.capBuf, capCnt := t.capCnt, tick := t.tick,
        cmdPort := s.cmdPort ++ m.presented } := by
  cases m with
  | main => exact absurd rfl hmain
  | reset => exact absurd rfl hreset
  | arrive b => exact ⟨_, rfl, by rw [arriveEvent_eq, Move.presented, List.append_nil]⟩
  | tick => exact ⟨_, rfl, by rw [Move.presented, List.append_nil]; rfl⟩
  | present bs => exact ⟨_, rfl, rfl⟩

/-- Settles O45: the events' frame, read off field by field. -/
theorem eventsLeaveTheOperationAlone : Obligations.EventsLeaveTheOperationAlone := by
  intro s hev
  have hmain : nextMove s ≠ .main := by intro hm; simp [hm] at hev
  have hreset : nextMove s ≠ .reset := by intro hm; simp [hm] at hev
  obtain ⟨t, hstep, hframe⟩ := takeMove_event_frame (afterAgenda s) hmain hreset
  refine ⟨t, hstep, ?_⟩
  rw [hframe]
  refine ⟨rfl, rfl, rfl, rfl, rfl, rfl, rfl, rfl, rfl, ⟨fun _ => rfl, rfl⟩, fun bs hm => ?_, fun hm => ?_⟩
  · rw [hm]; rfl
  · obtain ⟨b, hm⟩ | hm := hm <;> rw [hm] <;> exact List.append_nil _

end Sys2Proof.Machine
end

section
/-! The decoder and the encoder (30_encoding.md R84 to R88): the decoder's equation for each layout, the round trip in both
directions, which selectors are reserved, and, from the round trip, that no command's bytes begin with all of another's. -/

namespace Sys2Proof

/-! ## Length fields -/

theorem decodeList_append (xs rest : List Byte) (mk : List Byte → Instr) :
    decodeList xs.length (xs ++ rest) mk = .ok (mk xs) rest := by
  rw [decodeList, takeExact_append]

/-- A one-byte length field reads back the length of a list that fits it. -/
theorem decodeList_byte_length {xs : List Byte} (h : xs.length ≤ 255) (rest : List Byte) (mk : List Byte → Instr) :
    decodeList (byte xs.length).toNat (xs ++ rest) mk = .ok (mk xs) rest := by
  rw [byte_toNat (Nat.lt_succ_of_le h), decodeList_append]

/-- A 16-bit length field, the low byte first, reads back the length of a list that fits it. -/
theorem decodeList_bytes_length {xs : List Byte} (h : xs.length ≤ 65535) (rest : List Byte) (mk : List Byte → Instr) :
    decodeList ((byte (xs.length % 256)).toNat + 256 * (byte (xs.length / 256)).toNat) (xs ++ rest) mk =
      .ok (mk xs) rest := by
  rw [byte_toNat (Nat.mod_lt _ (by decide)), byte_toNat (by omega), Nat.mod_add_div, decodeList_append]

theorem decodeList_ok {n : Nat} {bs rest : List Byte} {mk : List Byte → Instr} {i : Instr}
    (h : decodeList n bs mk = .ok i rest) : ∃ xs, i = mk xs ∧ bs = xs ++ rest ∧ xs.length = n := by
  unfold decodeList at h
  split at h
  · cases h
  · next xs rest' hx =>
    cases h
    exact ⟨xs, rfl, takeExact_some hx⟩

theorem decodeList_ne_unknownOp (n : Nat) (bs : List Byte) (mk : List Byte → Instr) :
    decodeList n bs mk ≠ .rejected .unknownOp := by
  unfold decodeList
  split <;> simp

/-- A list whose length is read from a one-byte field is short enough for the field, and the field is written back. -/
theorem lengthField {n : Byte} {k : Nat} (h : k = n.toNat) : k ≤ 255 ∧ byte k = n := by
  subst h
  exact ⟨Nat.le_of_lt_succ n.isLt, byte_of_toNat n⟩

/-- A list whose length is read from a 16-bit field is short enough for the field, and the field's bytes are written back. -/
theorem lengthField16 {lo hi : Byte} {k : Nat} (h : k = lo.toNat + 256 * hi.toNat) :
    k ≤ 65535 ∧ byte (k % 256) = lo ∧ byte (k / 256) = hi := by
  have hlo : lo.toNat < 256 := lo.isLt
  have hhi : hi.toNat < 256 := hi.isLt
  have hmod : k % 256 = lo.toNat := by omega
  have hdiv : k / 256 = hi.toNat := by omega
  exact ⟨by omega, by rw [hmod, byte_of_toNat], by rw [hdiv, byte_of_toNat]⟩

/-! ## The layouts -/

theorem decode_regWrite (a n : Byte) (bs : List Byte) :
    decode (0x02 :: a :: n :: bs) = decodeList n.toNat bs (.regWrite a) := rfl
theorem decode_encodeStatus (e n : Byte) (bs : List Byte) :
    decode (0x03 :: e :: n :: bs) = decodeList n.toNat bs (.encodeStatus e) := rfl
theorem decode_validate (lo hi : Byte) (bs : List Byte) :
    decode (0x05 :: lo :: hi :: bs) = decodeList (lo.toNat + 256 * hi.toNat) bs .validate := rfl
theorem decode_syncRead (a c n : Byte) (bs : List Byte) :
    decode (0x07 :: a :: c :: n :: bs) = decodeList n.toNat bs (.syncRead a c) := rfl

/-- The encoder gives every instruction the selector and the total length of its layout. -/
theorem encode_layout (i : Instr) : (encode i).head? = some i.selector ∧ (encode i).length = i.size := by
  cases i with
  | regRead a c => exact Laws.CommandLayout.regRead a c
  | regWrite a d => exact Laws.CommandLayout.regWrite a d
  | encodeStatus e p => exact Laws.CommandLayout.encodeStatus e p
  | encodeReadCmd t a c => exact Laws.CommandLayout.encodeReadCmd t a c
  | validate r => exact Laws.CommandLayout.validate r
  | readRemote t a c => exact Laws.CommandLayout.readRemote t a c
  | syncRead a c ids => exact Laws.CommandLayout.syncRead a c ids

/-! ## The round trip -/

theorem decode_encode_append (i : Instr) (rest : List Byte) (h : i.wellFormed = true) :
    decode (encode i ++ rest) = .ok i rest := by
  cases i with
  | regRead a c => rfl
  | encodeReadCmd t a c => rfl
  | readRemote t a c => rfl
  | regWrite a d => exact (decode_regWrite a _ _).trans (decodeList_byte_length (of_decide_eq_true h) rest _)
  | encodeStatus e p => exact (decode_encodeStatus e _ _).trans (decodeList_byte_length (of_decide_eq_true h) rest _)
  | validate r => exact (decode_validate _ _ _).trans (decodeList_bytes_length (of_decide_eq_true h) rest _)
  | syncRead a c ids => exact (decode_syncRead a c _ _).trans (decodeList_byte_length (of_decide_eq_true h) rest _)

/-- What the layout of selector `op` reads is the command with these bytes. -/
theorem decodeOperands_ok {op : Byte} {bs rest : List Byte} {i : Instr}
    (h : decodeOperands op.toNat bs = .ok i rest) : i.wellFormed = true ∧ op :: bs = encode i ++ rest := by
  have hop : byte op.toNat = op := byte_of_toNat op
  generalize op.toNat = k at h hop
  subst hop
  unfold decodeOperands at h
  split at h
  case h_1 | h_4 | h_6 => cases h; exact ⟨rfl, rfl⟩
  case h_8 => cases h
  case h_2 | h_3 | h_7 =>
    obtain ⟨xs, rfl, rfl, hlen⟩ := decodeList_ok h
    obtain ⟨hle, hfield⟩ := lengthField hlen
    exact ⟨decide_eq_true hle, by rw [encode, hfield]; rfl⟩
  case h_5 =>
    obtain ⟨xs, rfl, rfl, hlen⟩ := decodeList_ok h
    obtain ⟨hle, hlo, hhi⟩ := lengthField16 hlen
    exact ⟨decide_eq_true hle, by rw [encode, hlo, hhi]; rfl⟩

theorem decode_ok {bs rest : List Byte} {i : Instr} (h : decode bs = .ok i rest) :
    i.wellFormed = true ∧ bs = encode i ++ rest := by
  cases bs with
  | nil => cases h
  | cons op bs =>
    rw [decode] at h
    split at h
    · cases h
    · exact decodeOperands_ok h

/-- Settles O1: by cases on the instruction; each length field reads back the list's length. -/
theorem decodeOfEncodeGivesTheCommand : Obligations.DecodeOfEncodeGivesTheCommand := decode_encode_append

/-- Settles O2: by cases on the layout; each list has the length its field gives. -/
theorem decodeTakesExactlyAnEncoding : Obligations.DecodeTakesExactlyAnEncoding := fun _ _ _ => decode_ok

/-- Settles O3: the vectors are the encodings of their commands, with nothing after them. -/
theorem specCommandBytesDecode : Obligations.SpecCommandBytesDecode :=
  ⟨decode_encode_append (.regRead 4 1) [] rfl,
    decode_encode_append (.regWrite 4 [50, 1, 0]) [] rfl,
    decode_encode_append (.encodeStatus 0 [0x12, 0x34, 0x05, 0xFD]) [] rfl,
    decode_encode_append (.encodeReadCmd 0xFE 0 255) [] rfl,
    decode_encode_append (.validate [0xFF, 0xFF, 0x01, 0x02, 0x00, 0xFC]) [] rfl,
    decode_encode_append (.readRemote 1 4 2) [] rfl,
    decode_encode_append (.syncRead 4 2 [1, 2]) [] rfl⟩

/-! ## Rejected sequences -/

theorem decodeOperands_ne_unknownOp (op : Nat) (bs : List Byte) : decodeOperands op bs ≠ .rejected .unknownOp := by
  unfold decodeOperands
  split
  case h_2 | h_3 | h_5 | h_7 => exact decodeList_ne_unknownOp _ _ _
  case h_1 | h_4 | h_6 | h_8 => simp

/-- Only a reserved selector is an unknown operation (R87). -/
theorem decode_unknownOp_iff (op : Byte) (bs : List Byte) :
    decode (op :: bs) = .rejected .unknownOp ↔ op.toNat = 0 ∨ 8 ≤ op.toNat := by
  rw [decode]
  split
  · next hres => exact ⟨fun _ => hres, fun _ => rfl⟩
  · next hres => exact ⟨fun h => absurd h (decodeOperands_ne_unknownOp _ _), fun h => absurd h hres⟩

theorem selector_not_reserved (i : Instr) : ¬ (i.selector.toNat = 0 ∨ 8 ≤ i.selector.toNat) := by
  cases i <;> simp [Instr.selector]

/-- No command begins with the bytes of another: what decodes out of the first bytes `p` of a command is the command, so
nothing of it is left over. -/
theorem decode_proper_prefix_ne_ok {i j : Instr} {p q rest : List Byte} (hi : i.wellFormed = true)
    (hpq : p ++ q = encode i) (hq : q ≠ []) : decode p ≠ .ok j rest := by
  intro hp
  obtain ⟨hj, hbytes⟩ := decode_ok hp
  have hwhole : decode (encode i) = .ok i [] := by simpa using decode_encode_append i [] hi
  have hpart : decode (encode i) = .ok j (rest ++ q) := by
    rw [← hpq, hbytes, List.append_assoc]
    exact decode_encode_append j (rest ++ q) hj
  rw [hwhole] at hpart
  injection hpart with _ hnil
  exact hq (List.append_eq_nil_iff.1 hnil.symm).2

/-- The first bytes of a command have its selector or are none, so they are no unknown operation. -/
theorem decode_prefix_ne_unknownOp {i : Instr} {p q : List Byte} (hpq : p ++ q = encode i) :
    decode p ≠ .rejected .unknownOp := by
  cases p with
  | nil => simp [decode]
  | cons op bs =>
    have hhead : some op = some i.selector := by
      rw [← (encode_layout i).1, ← hpq]
      rfl
    cases hhead
    rw [Ne, decode_unknownOp_iff]
    exact selector_not_reserved i

theorem decode_take_encode {i : Instr} {n : Nat} (hi : i.wellFormed = true) (hn : n < i.size) :
    decode ((encode i).take n) = .rejected .outOfDomain := by
  have hpq : (encode i).take n ++ (encode i).drop n = encode i := List.take_append_drop n _
  have hq : (encode i).drop n ≠ [] := by
    rw [Ne, List.drop_eq_nil_iff, (encode_layout i).2]
    exact Nat.not_le.2 hn
  cases hdec : decode ((encode i).take n) with
  | ok j rest => exact absurd hdec (decode_proper_prefix_ne_ok hi hpq hq)
  | rejected why =>
    cases why with
    | unknownOp => exact absurd hdec (decode_prefix_ne_unknownOp hpq)
    | outOfDomain => rfl

namespace Machine

/-- The accept step on a sequence that is no command (R38). -/
theorem step_rejected {s : State} {bs : List Byte} {more : List (List Byte)} {why : Reject} (hq : s.seq = .idle)
    (hm : s.mainNext) (hport : s.cmdPort = bs :: more) (hdec : decode bs = .rejected why) :
    step s = .next { s with agenda := s.agenda.tail, cmdPort := more, refused := true } := by
  rw [step_of_nextMove hm, takeMove, mainStep_idle (s := afterAgenda s) hq, idleStep, afterAgenda_cmdPort, hport]
  simp only [hdec]
  rfl

/-- Settles O4: the selectors are `decode_unknownOp_iff`'s, the step is IDLE's on a rejected sequence. -/
theorem reservedSelectorsAreRefused : Obligations.ReservedSelectorsAreRefused :=
  ⟨fun op bs => (decode_unknownOp_iff op bs).symm,
    fun _ op bs _ hq hm hport hres => step_rejected hq hm hport ((decode_unknownOp_iff op bs).2 hres)⟩

/-- Settles O5: the first bytes of a command, short of all, decode to no command and to no unknown operation. -/
theorem shortCommandIsOutOfDomain : Obligations.ShortCommandIsOutOfDomain := by
  intro i n hi hn
  have hdec := decode_take_encode hi hn
  exact ⟨hdec, fun _ _ hq hm hport => step_rejected hq hm hport hdec⟩

end Machine

end Sys2Proof
end

section
/-! The register bank (40_register_bank.md R92 to R97): the bounds tables entry by entry, the state each outcome of REG_READ
and REG_WRITE leaves, and from these what the two commands answer and leave alone. -/

namespace Sys2Proof.Machine

/-! ## The bounds tables -/

theorem bound_past {c : Config} {k : Nat} (h : ¬ k < c.boundLen) : c.bound k = none := if_pos (Nat.not_lt.1 h)

theorem bound_zero {c : Config} (h : 0 < c.boundLen) : c.bound 0 = some (10, 254) := if_neg (Nat.not_le.2 h)
theorem bound_one {c : Config} (h : 1 < c.boundLen) : c.bound 1 = some (c.min5, c.max5) := if_neg (Nat.not_le.2 h)
theorem bound_two {c : Config} (h : 2 < c.boundLen) : c.bound 2 = some (c.min6, c.max6) := if_neg (Nat.not_le.2 h)
theorem bound_add_three {c : Config} {k : Nat} (h : k + 3 < c.boundLen) : c.bound (k + 3) = some (0, 255) :=
  if_neg (Nat.not_le.2 h)

theorem legal_add_four_iff {c : Config} {k : Nat} {v lo hi : Byte} (hb : c.bound k = some (lo, hi)) :
    legal c (k + 4) v = true ↔ lo.toNat ≤ v.toNat ∧ v.toNat ≤ hi.toNat :=
  legal_iff_of_bound (Nat.not_lt.2 (Nat.le_add_left 4 k)) hb

/-- Settles O9: below START_RW and past the table's end both sides are false; within it, entry by entry. -/
theorem legalIsTheBoundsTable : Obligations.LegalIsTheBoundsTable := by
  intro cfg a v
  by_cases ha : a < 4
  · simp [legal_below_startRW ha, Nat.not_le.2 ha]
  obtain ⟨k, rfl⟩ := Nat.exists_eq_add_of_le' (Nat.not_lt.1 ha)
  by_cases hlen : k < cfg.boundLen
  · match k with
    | 0 => simp [legal_add_four_iff (bound_zero hlen), hlen]
    | 1 => simp [legal_add_four_iff (bound_one hlen), hlen]
    | 2 => simp [legal_add_four_iff (bound_two hlen), hlen]
    | k + 3 =>
      have hv : v.toNat ≤ 255 := Nat.le_of_lt_succ v.isLt
      simp [legal_add_four_iff (bound_add_three hlen), hlen, hv]
  · simp [legal_of_bound_none (a := k + 4) (bound_past hlen), hlen]

/-! ## The frame -/

theorem sameOutsideBank_of_frame {s t : State}
    (h : t = { s with
      bank := t.bank, persistLog := t.persistLog, seq := t.seq, reg := t.reg, res := t.res, resValid := t.resValid,
      resLog := t.resLog }) : s.SameOutsideBank t := by
  rw [h]
  exact ⟨rfl, rfl, rfl, rfl, rfl, rfl, rfl, rfl, rfl, rfl, rfl, rfl, rfl⟩

/-! ## REG_READ -/

theorem exec_regRead_rangeError {s : State} {a c : Byte} (hq : s.seq = .idle)
    (h : c = 0 ∨ s.cfg.bankSize < a.toNat + c.toNat) :
    exec (.regRead a c) s = .next ((accepted (.regRead a c) s).raise .rangeError) :=
  (exec_admitted hq rfl).trans (congrArg _ (if_pos h))

theorem exec_regRead_ok {s : State} {a c : Byte} (hq : s.seq = .idle)
    (h : ¬ (c = 0 ∨ s.cfg.bankSize < a.toNat + c.toNat)) :
    exec (.regRead a c) s = .next ((accepted (.regRead a c) s).finish .ok (memRead s a.toNat c.toNat)) := by
  rw [← memRead_congr (s := s) (t := accepted (.regRead a c) s) rfl rfl]
  exact (exec_admitted hq rfl).trans (congrArg _ (if_neg h))

/-- Settles O10: by R94's condition, RangeError or the bytes `memRead` reads; either way only the result port and the latches
are written. -/
theorem regReadAnswersTheBytesOrRangeError : Obligations.RegReadAnswersTheBytesOrRangeError := by
  intro s a c hq
  by_cases h : c = 0 ∨ s.cfg.bankSize < a.toNat + c.toNat
  · exact ⟨_, exec_regRead_rangeError hq h, rfl, rfl, fun _ => rfl,
      fun hc hle => (h.elim hc (Nat.not_lt.2 hle)).elim, rfl, rfl, ⟨fun _ => rfl, rfl⟩, sameOutsideBank_of_frame rfl⟩
  · exact ⟨_, exec_regRead_ok hq h, rfl, rfl, fun h' => absurd h' h,
      fun _ _ => ⟨rfl, memRead_length s _ _, fun k hk => memRead_getElem? s _ _ k hk⟩, rfl, rfl, ⟨fun _ => rfl, rfl⟩,
      sameOutsideBank_of_frame rfl⟩

/-! ## REG_WRITE -/

/-- What any state reads whose bank is the one `MemWrite` leaves. -/
theorem bankAt_of_memWrite {s t : State} {a : Nat} {d : List Byte} (hcan : s.bankCanonical) (hcfg : t.cfg = s.cfg)
    (hbank : t.bank = (memWrite s a d).bank) (x : Nat) :
    t.bankAt x = if a ≤ x ∧ x < a + d.length then d.getD (x - a) 0 else s.bankAt x := by
  rw [bankAt_congr (hcfg.trans (memWrite_cfg s a d).symm) hbank, memWrite_bankAt a d hcan]

theorem admitted_regWrite {cfg : Config} {a : Byte} {d : List Byte} (hd : d.length ≤ 255) :
    admitted cfg (.regWrite a d) = true := (atMost_iff d 255).2 hd

/-- An applied write leaves the latched state with the bank written, the persistence event and the result. -/
theorem exec_regWrite_applied {s : State} {a : Byte} {d : List Byte} (hq : s.seq = .idle) (hd : d.length ≤ 255)
    (hin : s.WriteInBounds a d) :
    exec (.regWrite a d) s = .next (State.finish
      { accepted (.regWrite a d) s with
        bank := (memWrite (accepted (.regWrite a d) s) a.toNat d).bank
        persistLog := s.persistLog ++ if d = [] then [] else [.persist a.toNat d] } .ok []) := by
  have happ : regWriteStep (accepted (.regWrite a d) s) =
      (persistWrite (memWrite (accepted (.regWrite a d) s) a.toNat d) a.toNat d).finish .ok [] :=
    if_pos ((writeAccepted_iff s a d).2 hin)
  rw [exec_admitted hq (admitted_regWrite hd), firstStep, happ, persistWrite_eq, memWrite_eq]
  rfl

theorem exec_regWrite_rejected {s : State} {a : Byte} {d : List Byte} (hq : s.seq = .idle) (hd : d.length ≤ 255)
    (hout : ¬ s.WriteInBounds a d) :
    exec (.regWrite a d) s = .next ((accepted (.regWrite a d) s).raise .rangeError) :=
  (exec_admitted hq (admitted_regWrite hd)).trans (congrArg _ (if_neg (mt (writeAccepted_iff s a d).1 hout)))

/-- Settles O11: by R96's condition; an applied write's bytes are `memWrite_bankAt`'s, a rejected one writes the result port
and the latches only. -/
theorem regWriteIsAppliedWholeOrRejectedWhole : Obligations.RegWriteIsAppliedWholeOrRejectedWhole := by
  intro s a d hq hcan hd
  by_cases hin : s.WriteInBounds a d
  · exact ⟨_, exec_regWrite_applied hq hd hin, rfl, rfl,
      fun _ => ⟨rfl, bankAt_of_memWrite (s := accepted (.regWrite a d) s) hcan rfl rfl, rfl⟩, fun h => absurd hin h,
      rfl, rfl, sameOutsideBank_of_frame rfl⟩
  · exact ⟨_, exec_regWrite_rejected hq hd hin, rfl, rfl, fun h => absurd h hin, fun _ => ⟨rfl, fun _ => rfl, rfl⟩,
      rfl, rfl, sameOutsideBank_of_frame rfl⟩

end Sys2Proof.Machine
end

section
/-! The packet codec (41_packet_codec.md R104 to R117): how the checksum sum moves when a list grows or one byte changes, what
this makes of the validator, and the frames the three commands answer. -/

namespace Sys2Proof.Machine

/-! ## The checksum sum of a changed list -/

theorem sumBytes_drop_append_singleton {bs : List Byte} {n : Nat} (hn : n ≤ bs.length) (b : Byte) :
    sumBytes ((bs ++ [b]).drop n) = sumBytes (bs.drop n) + b.toNat := by
  rw [List.drop_append_of_le_length hn, sumBytes_append, sumBytes_cons, sumBytes_nil, Nat.add_zero]

/-- Replacing a byte takes its value out of the sum and puts the new one in. -/
theorem sumBytes_set {bs : List Byte} {i : Nat} {x : Byte} (hx : bs[i]? = some x) (v : Byte) :
    sumBytes (bs.set i v) + x.toNat = sumBytes bs + v.toNat := by
  induction bs generalizing i with
  | nil => simp at hx
  | cons b bs ih =>
    cases i with
    | zero =>
      obtain rfl : b = x := by simpa using hx
      simp only [List.set_cons_zero, sumBytes_cons]
      omega
    | succ i =>
      have hrest := ih (i := i) (by simpa using hx)
      simp only [List.set_cons_succ, sumBytes_cons]
      omega

theorem sumBytes_drop_set {bs : List Byte} {n i : Nat} {x : Byte} (hi : n ≤ i) (hx : bs[i]? = some x) (v : Byte) :
    sumBytes ((bs.set i v).drop n) + x.toNat = sumBytes (bs.drop n) + v.toNat := by
  have hx' : (bs.drop n)[i - n]? = some x := by rw [List.getElem?_drop, Nat.add_sub_cancel' hi, hx]
  rw [List.drop_set, if_neg (Nat.not_lt.2 hi), sumBytes_set hx']

/-! ## The validator -/

/-- The validator's test in `Nat`, where lemmas about `sumBytes` rewrite it (R106). -/
theorem validate_iff_sumBytes (raw : List Byte) :
    validate raw = true ↔ 6 ≤ raw.length ∧ sumBytes (raw.drop 2) % 256 = 255 := validate_iff raw

theorem validate_append_zero {raw : List Byte} (hraw : validate raw = true) : validate (raw ++ [0]) = true := by
  rw [validate_iff_sumBytes] at hraw ⊢
  obtain ⟨hlen, hsum⟩ := hraw
  rw [sumBytes_drop_append_singleton (by omega)]
  exact ⟨by simp only [List.length_append]; omega, hsum⟩

theorem validate_append_singleton_iff {body : List Byte} (hlen : 5 ≤ body.length) (x : Byte) :
    validate (body ++ [x]) = true ↔ x.toNat = 255 - sumBytes (body.drop 2) % 256 := by
  have hx := x.isLt
  have hlen' : 6 ≤ (body ++ [x]).length := by simpa using hlen
  rw [validate_iff_sumBytes, sumBytes_drop_append_singleton (by omega)]
  omega

/-- The header is not summed (R107). -/
theorem validate_set_header (raw : List Byte) {i : Nat} (hi : i < 2) (v : Byte) :
    validate (raw.set i v) = validate raw := by
  rw [validate, validate, List.length_set, List.drop_set_of_lt hi]

/-- Of the byte values that can stand past the header of a valid list, its own is the only one that keeps it valid. -/
theorem validate_set_iff {raw : List Byte} {i : Nat} {x : Byte} (hraw : validate raw = true) (hi : 2 ≤ i)
    (hx : raw[i]? = some x) (v : Byte) : validate (raw.set i v) = true ↔ v = x := by
  have hsum := sumBytes_drop_set hi hx v
  have hvlt := v.isLt
  have hxlt := x.isLt
  rw [validate_iff_sumBytes] at hraw
  rw [validate_iff_sumBytes, List.length_set, ← BitVec.toNat_inj]
  omega

theorem validate_swap {raw : List Byte} {i j : Nat} {x y : Byte} (hraw : validate raw = true) (hi : 2 ≤ i) (hij : i < j)
    (hx : raw[i]? = some x) (hy : raw[j]? = some y) : validate ((raw.set i y).set j x) = true := by
  have hy' : (raw.set i y)[j]? = some y := by rw [List.getElem?_set_ne hij.ne, hy]
  have hfirst := sumBytes_drop_set hi hx y
  have hsecond := sumBytes_drop_set (hi.trans hij.le) hy' x
  rw [validate_iff_sumBytes] at hraw ⊢
  rw [List.length_set, List.length_set]
  omega

/-- Every frame the codec builds is valid: its last byte is the checksum of the bytes from the id to it. -/
theorem validate_mkframe (id code : Byte) (params : List Byte) : validate (mkframe id code params) = true :=
  (validate_append_singleton_iff (body := [hdr, hdr, id, byte (params.length + 2), code] ++ params)
    (Nat.le_add_left 5 _) _).2 (ck_toNat _)

/-- Settles O18, without the bound on the parameters. -/
theorem builtFrameIsValid : Obligations.BuiltFrameIsValid := fun id code params _ => validate_mkframe id code params

/-- Settles O19: past the header only the byte's own value keeps the sum, and the header is not summed. -/
theorem oneByteChangeDetectedPastTheHeader : Obligations.OneByteChangeDetectedPastTheHeader := by
  intro id code v params j _ hj hne
  refine ⟨fun hpast => ?_, fun hheader => (validate_set_header _ hheader v).trans (validate_mkframe id code params)⟩
  have hold := List.getElem?_eq_getElem ((mkframe_length id code params).symm ▸ hj)
  rw [← Bool.not_eq_true, validate_set_iff (validate_mkframe id code params) hpast hold]
  exact fun hv => hne (hv ▸ hold)

/-- Settles O20: an appended zero adds nothing to the sum, and an exchange takes out and puts in the same two bytes. -/
theorem checksumMissesSwapsAndAppendedZero : Obligations.ChecksumMissesSwapsAndAppendedZero :=
  fun _ hraw => ⟨validate_append_zero hraw, fun _ _ _ _ hi hij hx hy => validate_swap hraw hi hij hx hy⟩

/-- Settles O21. -/
theorem validIffLastByteIsTheChecksum : Obligations.ValidIffLastByteIsTheChecksum :=
  fun _ x hlen => validate_append_singleton_iff hlen x

/-! ## The three commands -/

/-- A frame's bytes, its checksum written out: the length byte is not truncated below the parameter limit (R105). -/
theorem mkframe_bytes (id code : Byte) {params : List Byte} (hlen : params.length ≤ 253) :
    mkframe id code params = [0xFF, 0xFF, id, byte (params.length + 2), code] ++ params ++
      [byte (255 - (id.toNat + (params.length + 2) + code.toNat + sumBytes params) % 256)] := by
  have hbyte : (byte (params.length + 2)).toNat = params.length + 2 := byte_toNat (by omega)
  have hsum : sumBytes ([id, byte (params.length + 2), code] ++ params) =
      id.toNat + (params.length + 2) + code.toNat + sumBytes params := by
    simp only [sumBytes_append, sumBytes_cons, sumBytes_nil, hbyte]
    omega
  rw [mkframe, frameck, ck, sum8, hsum]
  rfl

/-- A command whose first step finishes with `data` answers it, and writes the result port and the latches only. -/
theorem exec_answers {s : State} {i : Instr} {data : List Byte} (hq : s.seq = .idle) (ha : admitted s.cfg i = true)
    (hstep : firstStep i (accepted i s) = (accepted i s).finish .ok data) :
    ∃ t, exec i s = .next t ∧ t.resValid = true ∧ t.resLog = s.resLog ++ [t.res] ∧ t.res = ⟨0, data⟩ ∧
      t.seq = .idle ∧ t.reg = latch i s.reg ∧ s.SameBank t ∧ s.SameOutsideBank t :=
  ⟨_, (exec_admitted hq ha).trans (congrArg _ hstep), rfl, rfl, rfl, rfl, rfl, ⟨fun _ => rfl, rfl⟩,
    sameOutsideBank_of_frame rfl⟩

/-- Settles O15: the answer is the frame of `mkframe_bytes`. -/
theorem encodeStatusAnswersTheFrame : Obligations.EncodeStatusAnswersTheFrame := fun s e p hq hp =>
  exec_answers (i := .encodeStatus e p) hq ((atMost_iff p maxParams).2 hp)
    (congrArg (State.finish _ .ok) (mkframe_bytes s.cfg.bridgeId e hp))

/-- The eight bytes of the read command (30_encoding.md R77). -/
theorem encodeReadCommand_bytes (cfg : Config) (t a c : Byte) :
    encodeReadCommand cfg t a c = [0xFF, 0xFF, t, 0x04, cfg.cmdRead, a, c,
      byte (255 - (t.toNat + 4 + cfg.cmdRead.toNat + a.toNat + c.toNat) % 256)] := by
  rw [encodeReadCommand, mkframe_bytes t cfg.cmdRead (by simp), sumBytes_cons, sumBytes_cons, sumBytes_nil,
    Nat.add_zero, ← Nat.add_assoc]
  rfl

/-- Settles O16: the answer is the frame of `encodeReadCommand_bytes`. -/
theorem encodeReadCmdAnswersTheFrame : Obligations.EncodeReadCmdAnswersTheFrame := fun s i a c hq =>
  exec_answers (i := .encodeReadCmd i a c) hq rfl
    (congrArg (State.finish _ .ok) (encodeReadCommand_bytes s.cfg i a c))

/-- Settles O17: the answer is 1 exactly where `validate_iff_sumBytes` holds. -/
theorem validateAnswersTheChecksumTest : Obligations.ValidateAnswersTheChecksumTest := by
  intro s r hq hr
  simp only [← validate_iff_sumBytes]
  exact exec_answers (i := .validate r) hq ((atMost_iff r maxFrame).2 hr) rfl

end Sys2Proof.Machine
end

section
/-! Runs along an agenda (10_state.md R25, R44): a chain of moves, built move by move and phase by phase, and the machine's run
on the agenda of these moves. -/

namespace Sys2Proof.Machine

/-- The moves `ms`, taken one after the other, lead from `s` to `t`. The moves come from `ms`, so the agenda of the states does
not matter. -/
inductive MovesTo : State → List Move → State → Prop
  | nil (s : State) : MovesTo s [] s
  | cons {s t u : State} {m : Move} {ms : List Move} (hm : takeMove m s = .next t) (hms : MovesTo t ms u) :
      MovesTo s (m :: ms) u

/-- A chain that begins with the main sequencer's step. -/
theorem MovesTo.main {s t u : State} {ms : List Move} (hm : mainStep s = .next t) (hms : MovesTo t ms u) :
    MovesTo s (.main :: ms) u := .cons hm hms

theorem MovesTo.append {s t u : State} {ms ns : List Move} (h : MovesTo s ms t) (hn : MovesTo t ns u) :
    MovesTo s (ms ++ ns) u := by
  induction h with
  | nil => exact hn
  | cons hm _ ih => exact .cons hm (ih hn)

theorem run_succ_of_step {s t : State} (n : Nat) (h : step s = .next t) :
    Host.Core.run Sys2Proof.core (n + 1) s = Host.Core.run Sys2Proof.core n t := by
  simp only [Host.Core.run, show Sys2Proof.core.step s = .next t from h]

theorem MovesTo.run_withAgenda {s t : State} {ms : List Move} (h : MovesTo s ms t) (more : List Move) :
    Host.Core.run Sys2Proof.core ms.length (s.withAgenda (ms ++ more)) = .next (t.withAgenda more) := by
  induction h with
  | nil => rfl
  | @cons s t u m ms hm _ ih =>
    have hstep : step (s.withAgenda (m :: ms ++ more)) = .next (t.withAgenda (ms ++ more)) :=
      (step_withAgenda_cons s m (ms ++ more)).trans (by rw [hm]; rfl)
    rw [List.length_cons, run_succ_of_step _ hstep, ih]

/-- A chain of moves is the machine's run on an agenda that begins with them. -/
theorem MovesTo.run {s t : State} {ms more : List Move} (h : MovesTo s ms t) (ha : s.agenda = ms ++ more) :
    Host.Core.run Sys2Proof.core ms.length s = .next (t.withAgenda more) := by
  have hs : s.withAgenda (ms ++ more) = s := by rw [← ha]; rfl
  rw [← h.run_withAgenda more, hs]

end Sys2Proof.Machine
end

section
/-! The bus transaction engine (42_bus_transaction.md R118 to R134): the next state of each branch of RR_POLL, RR_CHECK and
RR_EXIT, the elapsed count, the chain of moves of each phase of a transaction, and from these the runs of a READ_REMOTE. -/

namespace Sys2Proof.Machine

/-! ## Accept -/

/-- Settles O22: the accept step of an operation whose domain is all operands. -/
theorem readRemoteEntersTheStateMachine : Obligations.ReadRemoteEntersTheStateMachine := fun _ _ _ _ hq =>
  ⟨_, exec_admitted hq rfl, rfl, rfl, rfl, rfl, ⟨fun _ => rfl, rfl⟩, sameOutsideBank_of_frame rfl⟩

theorem mainStep_command {s : State} {bs rest : List Byte} {more : List (List Byte)} {i : Instr} (hq : s.seq = .idle)
    (hport : s.cmdPort = bs :: more) (hdec : decode bs = .ok i rest) :
    mainStep s = exec i { s with cmdPort := portAfter rest more } := by
  rw [mainStep_idle hq, idleStep, hport]
  simp only [hdec]

/-! ## RR_POLL -/

theorem mainStep_poll_done {s : State} (hq : s.seq = .rrPoll) (hd : s.reg.c.toNat + 6 ≤ s.capCnt) :
    mainStep s = .next (s.goto .rrCheck) := by
  simp [mainStep_rrPoll hq, rrPollStep, State.done, hd]

theorem done_eq_false {s : State} (hd : s.capCnt < s.reg.c.toNat + 6) : s.done = false :=
  decide_eq_false (Nat.not_le.2 hd)

theorem expired_eq_false {s : State} (he : s.elapsed < s.reg.tmo) : s.expired = false := decide_eq_false (Nat.not_le.2 he)

theorem mainStep_poll_expired {s : State} (hq : s.seq = .rrPoll) (hd : s.capCnt < s.reg.c.toNat + 6)
    (he : s.reg.tmo ≤ s.elapsed) :
    mainStep s = .next ((s.setReg { s.reg with rrst := .timeout, rrData := [] }).goto .rrExit) := by
  simp [mainStep_rrPoll hq, rrPollStep, done_eq_false hd, State.expired, he]

/-- RR_POLL is disabled, and not only without effect, before the response and the deadline. -/
theorem mainEnabled_poll_held {s : State} (hq : s.seq = .rrPoll) (hd : s.capCnt < s.reg.c.toNat + 6)
    (he : s.elapsed < s.reg.tmo) : s.mainEnabled = false := by
  simp [State.mainEnabled, hq, done_eq_false hd, expired_eq_false he]

theorem mainEnabled_poll_expired {s : State} (hq : s.seq = .rrPoll) (he : s.reg.tmo ≤ s.elapsed) :
    s.mainEnabled = true := by
  simp [State.mainEnabled, hq, State.expired, he]

/-- Settles O24: the three branches of RR_POLL, with the move off the agenda. -/
theorem pollTestsTheResponseFirst : Obligations.PollTestsTheResponseFirst := by
  intro s hq hm
  rw [step_of_nextMove hm, takeMove]
  exact ⟨mainStep_poll_done (s := afterAgenda s) hq, mainStep_poll_expired (s := afterAgenda s) hq,
    fun hd he => mainStep_held (s := afterAgenda s) (mainEnabled_poll_held hq hd he)⟩

/-- Settles O28: CAPCNT is at most CAP, so RR_POLL is held or expires; an event leaves SEQ or resets it to IDLE. -/
theorem overCapacityReadNeverCompletes : Obligations.OverCapacityReadNeverCompletes := by
  intro s t h hq hcap hstep
  have hd : s.capCnt < s.reg.c.toNat + 6 := h.capCnt.trans_lt hcap
  have keep (hkeep : t.seq = s.seq) : t.seq ≠ .rrCheck ∧ (t.seq = .rrExit → t.reg.rrst = .timeout) := by
    simp [hkeep, hq]
  cases stepCase_of_step hstep with
  | idle hm hidle hi => exact absurd (hidle.symm.trans hq) Seq.noConfusion
  | busy hm hb =>
    obtain ⟨-, hexpired, hheld⟩ := pollTestsTheResponseFirst s hq hm
    obtain he | he := Nat.lt_or_ge s.elapsed s.reg.tmo
    · rw [hheld hd he] at hstep
      cases hstep
      exact keep rfl
    · rw [hexpired hd he] at hstep
      cases hstep
      exact ⟨Seq.noConfusion, fun _ => rfl⟩
  | arrive b hm => exact keep (by rw [arriveEvent_eq]; rfl)
  | reset hm => exact ⟨Seq.noConfusion, Seq.noConfusion⟩
  | tick | present => exact keep rfl

/-! ## RR_CHECK -/

/-- The registers RR_CHECK leaves for the response `f` (R127): the outcome, and the payload or nothing. -/
def Working.checked (r : Working) (f : List Byte) : Working :=
  if sumBytes (f.drop 2) % 256 = 255 then { r with rrst := .ok, rrData := (f.drop 5).take r.c.toNat }
  else { r with rrst := .checksumError, rrData := [] }

theorem response_of_prefix {s : State} {f : List Byte} (hlen : f.length = s.reg.c.toNat + 6) (hf : f <+: s.capBuf) :
    s.response = f := by
  rw [State.response, ← hlen, ← List.prefix_iff_eq_take.1 hf]

theorem mainStep_check {s : State} {f : List Byte} (hq : s.seq = .rrCheck) (hlen : f.length = s.reg.c.toNat + 6)
    (hf : f <+: s.capBuf) : mainStep s = .next ((s.setReg (s.reg.checked f)).goto .rrExit) := by
  have hvalid : validate f = true ↔ sumBytes (f.drop 2) % 256 = 255 := by
    rw [validate_iff_sumBytes, and_iff_right (by omega)]
  rw [mainStep_rrCheck hq, rrCheckStep, response_of_prefix hlen hf, Working.checked]
  simp only [hvalid]

/-- Settles O25: the response is `f`, and the validator's length test holds of it. -/
theorem checkTakesThePayloadOfAValidResponse : Obligations.CheckTakesThePayloadOfAValidResponse := by
  intro s f hq hm hlen hf
  rw [step_of_nextMove hm]
  exact mainStep_check (s := afterAgenda s) hq hlen hf

/-! ## RR_EXIT -/

theorem mainStep_exit_owner {s : State} (hq : s.seq = .rrExit) (ho : s.reg.owner = true) :
    mainStep s = .next (((s.setMode .relay).result s.reg.rrst s.reg.rrData).goto .idle) := by
  rw [mainStep_rrExit hq, rrExitStep, if_pos ho]

theorem mainStep_exit_inner {s : State} (hq : s.seq = .rrExit) (ho : s.reg.owner = false) :
    mainStep s = .next ((s.setReg
      { s.reg with
        slice := if s.reg.rrst = .ok then s.reg.rrData else List.replicate s.reg.c.toNat sentinel
        j := 0 }).goto .srEmit) := by
  rw [mainStep_rrExit hq, rrExitStep, if_neg (by simp [ho])]

/-- Settles O26: the two branches of RR_EXIT, with the move off the agenda. -/
theorem exitDeliversOrMakesTheSlice : Obligations.ExitDeliversOrMakesTheSlice := by
  intro s hq hm
  rw [step_of_nextMove hm]
  exact ⟨mainStep_exit_owner (s := afterAgenda s) hq, mainStep_exit_inner (s := afterAgenda s) hq⟩

/-! ## The elapsed count -/

/-- The next count after a tick, from any state: both are taken modulo the counter's range. -/
theorem elapsed_tickEvent (s : State) : (tickEvent s).elapsed = (s.elapsed + 1) % 2 ^ s.cfg.tickW := by
  have hpos : s.reg.t0 % 2 ^ s.cfg.tickW < 2 ^ s.cfg.tickW := Nat.mod_lt _ (Nat.two_pow_pos _)
  simp only [State.elapsed, tickEvent]
  rw [Nat.mod_add_mod, Nat.add_sub_assoc hpos.le, Nat.add_sub_assoc hpos.le, Nat.mod_add_mod, Nat.add_right_comm]

/-- Ticks write TICK only. -/
theorem tickEvent_iterate_eq (s : State) (n : Nat) :
    tickEvent^[n] s = { s with tick := (tickEvent^[n] s).tick } := by
  induction n with
  | zero => rfl
  | succ n ih => rw [Function.iterate_succ_apply', ih]; rfl

theorem elapsed_tickEvent_iterate (s : State) (n : Nat) :
    (tickEvent^[n] s).elapsed = (s.elapsed + n) % 2 ^ s.cfg.tickW := by
  induction n with
  | zero => exact (Nat.mod_mod _ _).symm
  | succ n ih =>
    have hcfg : (tickEvent^[n] s).cfg = s.cfg := by rw [tickEvent_iterate_eq]
    rw [Function.iterate_succ_apply', elapsed_tickEvent, hcfg, ih, Nat.mod_add_mod, Nat.add_assoc]

/-- Settles O27: the count is 0 where T0 is TICK, and each tick adds one modulo the counter's range. -/
theorem elapsedCountsTicksThroughAWrap : Obligations.ElapsedCountsTicksThroughAWrap := by
  intro s n htick ht0
  have hzero : s.elapsed = 0 := by
    rw [State.elapsed, ht0, Nat.mod_eq_of_lt htick, Nat.add_sub_cancel_left, Nat.mod_self]
  rw [elapsed_tickEvent_iterate, hzero, Nat.zero_add]

/-! ## A device that does not answer -/

theorem afterAgenda_of_nil {s : State} (ha : s.agenda = []) : afterAgenda s = s := by
  cases s
  cases ha
  rfl

theorem step_main_of_nil {s : State} (ha : s.agenda = []) (h : s.mainEnabled = true) : step s = mainStep s := by
  rw [step_of_nextMove (m := .main) (by simp [nextMove, ha, h]), afterAgenda_of_nil ha, takeMove]

theorem step_tick_of_nil {s : State} (ha : s.agenda = []) (h : s.mainEnabled = false) :
    step s = .next (tickEvent s) := by
  rw [step_of_nextMove (m := .tick) (by simp [nextMove, ha, h]), afterAgenda_of_nil ha, takeMove]

/-- With no move to come but the default schedule's, RR_POLL waits: time ticks up to the deadline. -/
theorem run_poll_waits (n : Nat) {s : State} (hq : s.seq = .rrPoll) (ha : s.agenda = [])
    (hd : s.capCnt < s.reg.c.toNat + 6) (htmo : s.reg.tmo < 2 ^ s.cfg.tickW) (hn : s.elapsed + n ≤ s.reg.tmo) :
    Host.Core.run Sys2Proof.core n s = .next (tickEvent^[n] s) := by
  induction n generalizing s with
  | zero => rfl
  | succ n ih =>
    have hheld : s.mainEnabled = false := mainEnabled_poll_held hq hd (by omega)
    have helapsed : (tickEvent s).elapsed = s.elapsed + 1 := by
      rw [elapsed_tickEvent, Nat.mod_eq_of_lt (by omega)]
    rw [run_succ_of_step n (step_tick_of_nil ha hheld), Function.iterate_succ_apply]
    exact ih hq ha hd htmo (by rw [helapsed, Nat.add_right_comm]; exact hn)

theorem run_exit_owner {s : State} (hq : s.seq = .rrExit) (ho : s.reg.owner = true) (ha : s.agenda = []) :
    Host.Core.run Sys2Proof.core 1 s = .next ((s.setMode .relay).finish s.reg.rrst s.reg.rrData) :=
  run_succ_of_step 0 ((step_main_of_nil ha (by simp [State.mainEnabled, hq])).trans (mainStep_exit_owner hq ho))

/-- At the deadline RR_POLL expires and RR_EXIT delivers Timeout and gives back the mode. -/
theorem run_poll_expires {s : State} (hq : s.seq = .rrPoll) (ho : s.reg.owner = true) (ha : s.agenda = [])
    (hd : s.capCnt < s.reg.c.toNat + 6) (he : s.reg.tmo ≤ s.elapsed) :
    Host.Core.run Sys2Proof.core 2 s = .next ((((s.setReg { s.reg with rrst := .timeout, rrData := [] }).goto
      .rrExit).setMode .relay).finish .timeout []) := by
  rw [run_succ_of_step 1 ((step_main_of_nil ha (mainEnabled_poll_expired hq he)).trans (mainStep_poll_expired hq hd he))]
  exact run_exit_owner rfl ho ha

/-- Settles O29: the ticks up to the deadline, then RR_POLL's expiry and RR_EXIT. -/
theorem silentDeviceEndsInTimeout : Obligations.SilentDeviceEndsInTimeout := by
  intro s h hq ho ha hd he
  obtain ⟨-, -, htmo⟩ := (seqOk_rrPoll hq).1 h.seq
  have hwait := run_poll_waits (s.reg.tmo - s.elapsed) hq ha hd htmo (Nat.add_sub_cancel' he.le).le
  have hdeadline := elapsed_tickEvent_iterate s (s.reg.tmo - s.elapsed)
  rw [Nat.add_sub_cancel' he.le, Nat.mod_eq_of_lt htmo] at hdeadline
  rw [tickEvent_iterate_eq] at hwait hdeadline
  exact ⟨_, (run_add hwait).trans (run_poll_expires hq ho ha hd hdeadline.ge), rfl, rfl, rfl, rfl, rfl, rfl, rfl,
    fun _ => rfl, rfl⟩

/-! ## The read command -/

/-- `s` once RR_TX has sent the bytes `bs`, the rest of the command frame (R123). -/
def State.transmitted (s : State) (bs : List Byte) : State :=
  { s with busLog := s.busLog ++ bs.map .byte, reg := { s.reg with i := 8 }, seq := .rrListen }

/-- RR_TX sends the rest `bs` of the command frame, a byte a step (R123). SEQ follows `I` as RR_TX sets it, to RR_LISTEN once
all eight bytes are sent. -/
theorem movesTo_transmit {bs : List Byte} {s : State} (hq : s.seq = if s.reg.i = 8 then .rrListen else .rrTx)
    (hbs : s.reg.txBuf.drop s.reg.i = bs) (hlen : s.reg.i + bs.length = 8) :
    MovesTo s (List.replicate bs.length .main) (s.transmitted bs) := by
  induction bs generalizing s with
  | nil =>
    have hi : s.reg.i = 8 := hlen
    rw [if_pos hi] at hq
    rw [State.transmitted, List.map_nil, List.append_nil, ← hi, ← hq]
    exact .nil s
  | cons b bs ih =>
    rw [List.length_cons] at hlen
    rw [if_neg (by omega)] at hq
    have hb : s.reg.txBuf[s.reg.i]? = some b := by rw [← List.head?_drop, hbs]; rfl
    have hrest : s.reg.txBuf.drop (s.reg.i + 1) = bs := by rw [← List.tail_drop, hbs]; rfl
    have hsend : takeMove .main s = .next (((s.busSend b).setReg { s.reg with i := s.reg.i + 1 }).goto
        (if s.reg.i + 1 = 8 then .rrListen else .rrTx)) := by
      rw [takeMove, mainStep_rrTx hq, rrTxStep, hb]
    have hsent := ih (s := ((s.busSend b).setReg { s.reg with i := s.reg.i + 1 }).goto
        (if s.reg.i + 1 = 8 then .rrListen else .rrTx)) rfl hrest
      (by simp only [State.goto_reg, State.setReg_reg]; omega)
    rw [State.transmitted, List.map_cons, List.append_cons]
    exact .cons hsend hsent

/-- `s` as the states from RR_RESET to RR_ARM leave it: the count reset, the command built and sent between Drive and Listen,
the timeout armed (R121 to R125). -/
def State.armed (s : State) : State :=
  { s with
    capCnt := 0
    busLog := s.busLog ++ [.drive] ++ (encodeReadCommand s.cfg s.reg.t s.reg.a s.reg.c).map .byte ++ [.listen]
    busDir := .listen
    seq := .rrPoll
    reg := { s.reg with
      txBuf := encodeReadCommand s.cfg s.reg.t s.reg.a s.reg.c, i := 8, t0 := s.tick, tmo := s.timeoutNow } }

/-- RR_ARM's timeout is that of any earlier state with the same bank. -/
theorem rrArmStep_of_sameBank {s t : State} (hc : t.cfg = s.cfg) (hb : t.bank = s.bank) :
    rrArmStep t = (t.setReg { t.reg with t0 := t.tick, tmo := s.timeoutNow }).goto .rrPoll := by
  rw [rrArmStep, timeoutNow_congr hc hb]

theorem rrArmStep_transmitted (s : State) :
    rrArmStep (rrListenStep ((rrDriveStep (rrResetStep s)).transmitted
      (encodeReadCommand s.cfg s.reg.t s.reg.a s.reg.c))) = s.armed := by
  rw [rrArmStep_of_sameBank (s := s)] <;> rfl

/-- From RR_RESET to RR_POLL: RR_RESET, RR_DRIVE, eight steps of RR_TX, RR_LISTEN and RR_ARM. -/
theorem movesTo_armed {s : State} (hq : s.seq = .rrReset) : MovesTo s (List.replicate 12 .main) s.armed := by
  have hsend := movesTo_transmit (s := rrDriveStep (rrResetStep s)) rfl rfl rfl
  rw [← rrArmStep_transmitted]
  exact .main (mainStep_rrReset hq) (.main (mainStep_rrDrive rfl) (hsend.append
    (.main (mainStep_rrListen rfl) (.main (mainStep_rrArm rfl) (.nil _)))))

/-- Settles O23: the moves of `movesTo_armed`. -/
theorem transactionSendsOneReadCommand : Obligations.TransactionSendsOneReadCommand := fun _ _ hq ha =>
  ⟨_, (movesTo_armed hq).run ha, rfl, rfl, rfl, rfl, rfl, rfl, rfl, rfl, rfl, rfl, rfl, rfl, fun _ => rfl, rfl⟩

/-! ## A device that answers -/

/-- Arrivals in Divert that fit the capture buffer stand in it after the bytes captured before (43_bridge_mode.md R142). -/
theorem movesTo_captured {f : List Byte} {s : State} (hmode : s.mode = .divert) (hfit : s.capCnt + f.length ≤ s.cfg.cap)
    (hbuf : s.cfg.cap ≤ s.capBuf.length) :
    MovesTo s (f.map .arrive)
      { s with
        capBuf := s.capBuf.take s.capCnt ++ f ++ s.capBuf.drop (s.capCnt + f.length)
        capCnt := s.capCnt + f.length } := by
  induction f generalizing s with
  | nil => simpa using MovesTo.nil s
  | cons b f ih =>
    rw [List.length_cons] at hfit ⊢
    have hcapture : takeMove (.arrive b) s =
        .next { s with capBuf := s.capBuf.set s.capCnt b, capCnt := s.capCnt + 1 } := by
      simp [takeMove, arriveEvent, hmode, State.capture, show s.capCnt < s.cfg.cap by omega]
    have hrest := ih (s := { s with capBuf := s.capBuf.set s.capCnt b, capCnt := s.capCnt + 1 }) hmode
      (by rw [Nat.add_right_comm]; exact hfit) (by simpa using hbuf)
    have htake : (s.capBuf.set s.capCnt b).take (s.capCnt + 1) = s.capBuf.take s.capCnt ++ [b] := by
      rw [List.set_eq_take_append_cons_drop, if_pos (by omega), List.append_cons]
      exact List.take_left' (by simp; omega)
    dsimp only at hrest
    rw [htake, List.drop_set_of_lt (by omega), Nat.add_right_comm, ← List.append_cons] at hrest
    exact .cons hcapture hrest

/-- From RR_POLL, with the response captured, to IDLE: RR_POLL, RR_CHECK and RR_EXIT (R126 to R128). -/
theorem movesTo_delivered {s : State} {f : List Byte} (hq : s.seq = .rrPoll) (ho : s.reg.owner = true)
    (hlen : f.length = s.reg.c.toNat + 6) (hcnt : f.length ≤ s.capCnt) (hf : f <+: s.capBuf) :
    MovesTo s (List.replicate 3 .main)
      (((s.setReg (s.reg.checked f)).setMode .relay).finish (s.reg.checked f).rrst (s.reg.checked f).rrData) := by
  have howner : (s.reg.checked f).owner = true := by
    rw [Working.checked]
    split <;> exact ho
  exact .main (mainStep_poll_done hq (hlen ▸ hcnt)) (.main (mainStep_check rfl hlen hf)
    (.main (mainStep_exit_owner rfl howner) (.nil _)))

theorem checked_result (r : Working) (f : List Byte) :
    (⟨(r.checked f).rrst.code, (r.checked f).rrData⟩ : ResultPort) =
      if sumBytes (f.drop 2) % 256 = 255 then ⟨0, (f.drop 5).take r.c.toNat⟩ else ⟨3, []⟩ := by
  rw [Working.checked]
  split <;> rfl

/-- `s` with the READ_REMOTE of `t`, `a` and `c` accepted and the mode taken (R119, R120). -/
def State.entered (s : State) (t a c : Byte) : State :=
  { s with
    cmdPort := [], resValid := false, reg := latch (.readRemote t a c) s.reg, mode := .divert, seq := .rrReset }

/-- From IDLE to RR_RESET: the command presented, accept and RR_ENTER. -/
theorem movesTo_entered {s : State} {t a c : Byte} (hq : s.seq = .idle) (hport : s.cmdPort = []) :
    MovesTo s [.present (encode (.readRemote t a c)), .main, .main] (s.entered t a c) := by
  have hport' : (presentEvent (encode (.readRemote t a c)) s).cmdPort = [encode (.readRemote t a c)] := by
    simp [presentEvent, hport]
  have hdec : decode (encode (.readRemote t a c)) = .ok (.readRemote t a c) [] :=
    decode_encode_append (.readRemote t a c) [] rfl
  exact .cons rfl (.main ((mainStep_command (s := presentEvent _ s) hq hport' hdec).trans (exec_admitted hq rfl))
    (.main (mainStep_rrEnter rfl) (.nil _)))

/-- Settles O30: accept and RR_ENTER, the read command, the arrivals, and RR_POLL, RR_CHECK and RR_EXIT. -/
theorem answeredReadRemoteRunsEndToEnd : Obligations.AnsweredReadRemoteRunsEndToEnd := by
  intro s i a c f more h hq hport hlen hfit ha
  have hsent : MovesTo s ([.present (encode (.readRemote i a c))] ++ List.replicate 14 .main) (s.entered i a c).armed :=
    (movesTo_entered hq hport).append (movesTo_armed rfl)
  have hcaptured := movesTo_captured (f := f) (s := (s.entered i a c).armed) rfl
    (by rw [State.armed, Nat.zero_add]; exact hfit) h.capBuf.ge
  have hdelivered := movesTo_delivered (f := f) (s := { (s.entered i a c).armed with
    capBuf := f ++ s.capBuf.drop (0 + f.length), capCnt := 0 + f.length }) rfl rfl hlen (by simp) ⟨_, rfl⟩
  have hrun := ((hsent.append hcaptured).append hdelivered).run ha
  simp only [List.length_append, List.length_map, List.length_replicate, List.length_singleton] at hrun
  exact ⟨_, hrun, rfl, rfl, rfl, rfl, checked_result _ f, rfl, rfl, rfl, fun _ => rfl, rfl⟩

end Sys2Proof.Machine
end

section
/-! The bridge mode (43_bridge_mode.md R135 to R145): what an arrival does in each mode, and, by cases on the step, who writes
MODE and who writes the host stream. -/

namespace Sys2Proof.Machine

/-! ## Arrivals -/

theorem arriveEvent_relay {s : State} (b : Byte) (hmode : s.mode = .relay) : arriveEvent b s = s.hostSendT b := by
  rw [arriveEvent, hmode]

theorem arriveEvent_divert {s : State} (b : Byte) (hmode : s.mode = .divert) : arriveEvent b s = s.capture b := by
  rw [arriveEvent, hmode]

/-- Settles O32: in Relay an arrival is HostSendT, below the threshold or at it. -/
theorem relayForwardsTheByte : Obligations.RelayForwardsTheByte := by
  intro s b hmode hm
  rw [step_of_nextMove hm, takeMove, arriveEvent_relay (s := afterAgenda s) b hmode]
  obtain ⟨hflush, hsend⟩ | ⟨hpend, hsend⟩ := hostSendT_cases (afterAgenda s) b <;> rw [hsend]
  · rw [afterAgenda_cfg, afterAgenda_hostPend] at hflush
    simp [hflush, afterAgenda]
  · rw [afterAgenda_cfg, afterAgenda_hostPend] at hpend
    simp [Nat.not_le.2 hpend, afterAgenda]

/-- Settles O33: in Divert an arrival is the capture, below the capacity or at it. -/
theorem divertCapturesUpToTheCapacity : Obligations.DivertCapturesUpToTheCapacity := by
  intro s b hmode hm
  rw [step_of_nextMove hm, takeMove, arriveEvent_divert (s := afterAgenda s) b hmode]
  exact ⟨fun hlt => congrArg Host.Outcome.next (if_pos hlt),
    fun hge => congrArg Host.Outcome.next (if_neg (Nat.not_lt.2 hge))⟩

/-! ## MODE -/

theorem IdleStep.mode {s t : State} (h : IdleStep s t) : t.mode = s.mode := by rw [h.frame]

theorem arriveEvent_mode (b : Byte) (s : State) : (arriveEvent b s).mode = s.mode := by rw [arriveEvent_eq]

/-- A step under way takes the mode in RR_ENTER and SR_ENTER and gives it back in RR_EXIT and SR_EXIT; RR_ENTER and RR_EXIT do
so only for a command that owns it (42_bus_transaction.md R120, R128, 44_sync_read.md R149, R155). -/
theorem BusyStep.mode {s t : State} (h : BusyStep s t) :
    t.mode =
      if (s.seq = .rrEnter ∧ s.reg.owner = true) ∨ s.seq = .srEnter then .divert
      else if (s.seq = .rrExit ∧ s.reg.owner = true) ∨ s.seq = .srExit then .relay
      else s.mode := by
  cases h with
  | srHdr | srEmitByte | srCk => rw [hostSendT_eq]; simp [*]
  | rrReset hq => simp [hq, rrResetStep]
  | srEnter hq => simp [hq, srEnterStep]
  | _ => simp [*]

/-- Settles O31: a step under way writes MODE in its four states, reset to Relay, and no other move writes it. -/
theorem modeChangesOnlyAsTheTableSays : Obligations.ModeChangesOnlyAsTheTableSays := by
  intro s t h
  cases stepCase_of_step h with
  | idle hm hq hi => simpa [show nextMove s = .main from hm, hq] using hi.mode
  | busy hm hb =>
    rw [hb.mode]
    simp only [show nextMove s = .main from hm, afterAgenda_seq, afterAgenda_reg, afterAgenda_mode, true_and, reduceCtorEq,
      if_false]
    congr
  | arrive b hm => simpa [hm] using arriveEvent_mode b (afterAgenda s)
  | tick hm => simp [hm, tickEvent]
  | reset hm => simp [hm, resetEvent]
  | present bs hm => simp [hm, presentEvent]

/-! ## The host stream -/

theorem capture_hostLog (s : State) (b : Byte) : (s.capture b).hostLog = s.hostLog := by
  obtain ⟨-, e⟩ | ⟨-, e⟩ := capture_cases s b <;> rw [e]

/-- An arrival that writes the host log is relayed. -/
theorem mode_of_arriveEvent_hostLog_ne {s : State} {b : Byte} (hne : (arriveEvent b s).hostLog ≠ s.hostLog) :
    s.mode = .relay := by
  cases hmode : s.mode with
  | relay => rfl
  | divert => exact absurd (by rw [arriveEvent_divert b hmode, capture_hostLog]) hne

/-- The states under way that write the host log (44_sync_read.md R150, R152 to R154). -/
theorem BusyStep.hostLog_cases {s t : State} (h : BusyStep s t) :
    t.hostLog = s.hostLog ∨ s.seq = .srHdr ∨ s.seq = .srEmit ∨ s.seq = .srCk ∨ s.seq = .srFlush := by
  cases h with
  | srHdr b hq hb => exact .inr (.inl hq)
  | srEmitByte b hq hj hb => exact .inr (.inr (.inl hq))
  | srCk hq => exact .inr (.inr (.inr (.inl hq)))
  | srFlushPending hq hp => exact .inr (.inr (.inr (.inr hq)))
  | _ => exact .inl rfl

/-- A sync-read writes the host stream while the mode is its own. -/
theorem State.Inv.mode_of_hostWriter {s : State} (h : s.Inv)
    (hq : s.seq = .srHdr ∨ s.seq = .srEmit ∨ s.seq = .srCk ∨ s.seq = .srFlush) : s.mode = .divert := by
  obtain hq | hq | hq | hq := hq
  · exact ((seqOk_srHdr hq).1 h.seq).1
  · exact ((seqOk_srEmit hq).1 h.seq).1
  · exact ((seqOk_srCk hq).1 h.seq).1
  · exact ((seqOk_srFlush hq).1 h.seq).1

/-- Settles O35: by cases on the step; the invariant gives the mode in the four states of the sync-read. -/
theorem hostStreamHasOneWriterAtATime : Obligations.HostStreamHasOneWriterAtATime := by
  intro s t h hstep hne
  cases stepCase_of_step hstep with
  | idle hm hq hi => exact absurd hi.hostLog hne
  | busy hm hb =>
    obtain hsame | hq := hb.hostLog_cases
    · exact absurd hsame hne
    · exact .inr (.inl ⟨h.mode_of_hostWriter hq, hm, hq⟩)
  | arrive b hm => exact .inl ⟨mode_of_arriveEvent_hostLog_ne (s := afterAgenda s) hne, b, hm⟩
  | reset hm => exact .inr (.inr hm)
  | tick | present => exact absurd rfl hne

end Sys2Proof.Machine
end

section
/-! Every operation ends (43_bridge_mode.md R136, 60_exceptions.md R172, R183): a state that meets the invariant always has a
next state, a step spends one move of the agenda, and with the agenda spent each step leaves less of the operation to do. -/

namespace Sys2Proof.Machine

/-! ## The invariant gives a next state -/

theorem exec_progress (i : Instr) (s : State) : ∃ t, exec i s = .next t := by
  obtain ⟨-, e⟩ | ⟨-, -, e⟩ | ⟨-, -, e⟩ := exec_cases i s <;> exact ⟨_, e⟩

theorem idleStep_progress (s : State) : ∃ t, idleStep s = .next t := by
  obtain ⟨-, e⟩ | ⟨_, _, _, -, -, e⟩ | ⟨_, _, _, _, -, -, e⟩ := idleStep_cases s <;> rw [e]
  · exact ⟨_, rfl⟩
  · exact ⟨_, rfl⟩
  · exact exec_progress _ _

theorem rrTxStep_progress {s : State} (h : s.Inv) (hq : s.seq = .rrTx) : ∃ t, rrTxStep s = .next t := by
  obtain ⟨-, hi⟩ := (seqOk_rrTx hq).1 h.seq
  rw [← h.widths.txBuf] at hi
  rw [rrTxStep, List.getElem?_eq_getElem hi]
  exact ⟨_, rfl⟩

theorem srHdrStep_progress {s : State} (h : s.Inv) (hq : s.seq = .srHdr) : ∃ t, srHdrStep s = .next t := by
  obtain ⟨-, -, hj⟩ := (seqOk_srHdr hq).1 h.seq
  have hj' : s.reg.j < (syncHeader s.cfg s.reg.l).length := hj
  rw [srHdrStep, List.getElem?_eq_getElem hj']
  exact ⟨_, rfl⟩

theorem srEmitStep_progress {s : State} (h : s.Inv) (hq : s.seq = .srEmit) : ∃ t, srEmitStep s = .next t := by
  obtain ⟨-, -, -, hlen, -⟩ := (seqOk_srEmit hq).1 h.seq
  rw [srEmitStep]
  split
  · next hj =>
    rw [← hlen] at hj
    rw [List.getElem?_eq_getElem hj]
    exact ⟨_, rfl⟩
  · exact ⟨_, rfl⟩

/-- The three steps that index a list find their index within it. -/
theorem mainStep_progress {s : State} (h : s.Inv) : ∃ t, mainStep s = .next t := by
  cases hq : s.seq with
  | idle => rw [mainStep_idle hq]; exact idleStep_progress s
  | rrTx => rw [mainStep_rrTx hq]; exact rrTxStep_progress h hq
  | srHdr => rw [mainStep_srHdr hq]; exact srHdrStep_progress h hq
  | srEmit => rw [mainStep_srEmit hq]; exact srEmitStep_progress h hq
  | _ => simp only [mainStep, hq]; exact ⟨_, rfl⟩

theorem step_progress {s : State} (h : s.Inv) : ∃ t, step s = .next t := by
  cases hm : nextMove s <;> rw [step_of_nextMove hm, takeMove]
  case main => exact mainStep_progress (afterAgenda_inv h)
  all_goals exact ⟨_, rfl⟩

/-! ## The agenda is spent -/

/-- A step takes its move off the agenda, and no move writes it. -/
theorem StepCase.agenda {s t : State} (h : StepCase s t) : t.agenda = s.agenda.tail := by
  cases h with
  | idle hm hq hi => rw [hi.frame]; rfl
  | busy hm hb => rw [hb.frame]; rfl
  | arrive b hm => rw [arriveEvent_eq]; rfl
  | tick | reset | present => rfl

theorem run_spends_agenda {s : State} (h : s.Inv) :
    ∃ t, Host.Core.run Sys2Proof.core s.agenda.length s = .next t ∧ t.Inv ∧ t.agenda = [] := by
  induction hn : s.agenda.length generalizing s with
  | zero => exact ⟨s, rfl, h, List.length_eq_zero_iff.1 hn⟩
  | succ n ih =>
    obtain ⟨u, hstep⟩ := step_progress h
    have hlen : u.agenda.length = n := by rw [(stepCase_of_step hstep).agenda, List.length_tail, hn, Nat.add_sub_cancel]
    rw [run_succ_of_step n hstep]
    exact ih (everyStepKeepsTheInvariant s u h hstep) hlen

/-! ## What is left of an operation -/

/-- The devices of a batch whose slice is still to be sent. `K` counts them from SR_NEXT on; before, all are to come. -/
def State.devicesLeft (s : State) : Nat :=
  match s.seq with
  | .srEnter | .srHdr => s.reg.ids.length
  | _ => s.reg.ids.length - s.reg.k

/-- The place of a sequencer state in the order in which an operation goes through them, from the end. One device's round
trip, SR_NEXT to SR_EMIT, is in it once. -/
def Seq.stagesLeft : Seq → Nat
  | .srEnter => 15
  | .srHdr => 14
  | .srNext | .rrEnter => 13
  | .rrReset => 12
  | .rrDrive => 11
  | .rrTx => 10
  | .rrListen => 9
  | .rrArm => 8
  | .rrPoll => 7
  | .rrCheck => 6
  | .rrExit => 5
  | .srEmit => 4
  | .srCk => 3
  | .srFlush => 2
  | .srExit => 1
  | .idle => 0

/-- The rounds left in the sequencer state itself: bytes to send, or ticks to wait. -/
def State.roundsLeft (s : State) : Nat :=
  match s.seq with
  | .srHdr => 5 - s.reg.j
  | .rrTx => 8 - s.reg.i
  | .rrPoll => s.reg.tmo - s.elapsed
  | .srEmit => s.reg.c.toNat - s.reg.j
  | _ => 0

/-- What is left of the operation under way, compared lexicographically: devices, then stages, then rounds. -/
def State.workLeft (s : State) : Nat ×ₗ Nat ×ₗ Nat := toLex (s.devicesLeft, toLex (s.seq.stagesLeft, s.roundsLeft))

theorem workLeft_lt_of_device {s t : State} (h : t.devicesLeft < s.devicesLeft) : t.workLeft < s.workLeft :=
  Prod.Lex.toLex_lt_toLex.2 (.inl h)

theorem workLeft_lt_of_stage {s t : State} (hd : t.devicesLeft = s.devicesLeft)
    (h : t.seq.stagesLeft < s.seq.stagesLeft) : t.workLeft < s.workLeft :=
  Prod.Lex.toLex_lt_toLex.2 (.inr ⟨hd, Prod.Lex.toLex_lt_toLex.2 (.inl h)⟩)

theorem workLeft_lt_of_round {s t : State} (hd : t.devicesLeft = s.devicesLeft) (hq : t.seq = s.seq)
    (h : t.roundsLeft < s.roundsLeft) : t.workLeft < s.workLeft :=
  Prod.Lex.toLex_lt_toLex.2 (.inr ⟨hd, Prod.Lex.toLex_lt_toLex.2 (.inr ⟨congrArg Seq.stagesLeft hq, h⟩)⟩)

theorem hostSendT_seq (s : State) (b : Byte) : (s.hostSendT b).seq = s.seq := by rw [hostSendT_eq]
theorem hostSendT_reg (s : State) (b : Byte) : (s.hostSendT b).reg = s.reg := by rw [hostSendT_eq]

theorem rrTx_workLeft_lt {s : State} (b : Byte) (hq : s.seq = .rrTx) (hi : s.reg.i < 8) :
    (((s.busSend b).setReg { s.reg with i := s.reg.i + 1 }).goto
      (if s.reg.i + 1 = 8 then .rrListen else .rrTx)).workLeft < s.workLeft := by
  split
  · exact workLeft_lt_of_stage (by simp [State.devicesLeft, hq]) (by simp [hq, Seq.stagesLeft])
  · refine workLeft_lt_of_round (by simp [State.devicesLeft, hq]) hq.symm ?_
    simp only [State.roundsLeft, hq, State.goto_seq, State.goto_reg, State.setReg_reg]
    omega

theorem srHdr_workLeft_lt {s : State} (b sum : Byte) (hq : s.seq = .srHdr) (hj : s.reg.j < 5) :
    (((s.hostSendT b).setReg
      { s.reg with
        sum := sum
        j := s.reg.j + 1
        k := if s.reg.j + 1 = 5 then 0 else s.reg.k }).goto
      (if s.reg.j + 1 = 5 then .srNext else .srHdr)).workLeft < s.workLeft := by
  split
  · exact workLeft_lt_of_stage (by simp [State.devicesLeft, hq]) (by simp [hq, Seq.stagesLeft])
  · refine workLeft_lt_of_round (by simp [State.devicesLeft, hq]) hq.symm ?_
    simp only [State.roundsLeft, hq, State.goto_seq, State.goto_reg, State.setReg_reg]
    omega

theorem srEmitByte_workLeft_lt {s : State} (b sum : Byte) (hq : s.seq = .srEmit) (hj : s.reg.j < s.reg.c.toNat) :
    ((s.hostSendT b).setReg { s.reg with sum := sum, j := s.reg.j + 1 }).workLeft < s.workLeft := by
  refine workLeft_lt_of_round (by simp [State.devicesLeft, hq, hostSendT_seq]) (hostSendT_seq s b) ?_
  simp only [State.roundsLeft, hq, State.setReg_seq, State.setReg_reg, hostSendT_seq]
  omega

theorem srEmitDone_workLeft_lt {s : State} (hq : s.seq = .srEmit) (hk : s.reg.k < s.reg.ids.length) :
    ((s.setReg { s.reg with k := s.reg.k + 1 }).goto .srNext).workLeft < s.workLeft := by
  refine workLeft_lt_of_device ?_
  simp only [State.devicesLeft, hq, State.goto_seq, State.goto_reg, State.setReg_reg]
  omega

/-- Every step the main sequencer has in an operation under way leaves less to do. A held RR_POLL is no such step. -/
theorem BusyStep.workLeft_lt {s t : State} (h : BusyStep s t) (hs : s.Inv) (hen : s.mainEnabled = true) :
    t.workLeft < s.workLeft := by
  cases h with
  | rrTx b hq hb => exact rrTx_workLeft_lt b hq ((seqOk_rrTx hq).1 hs.seq).2
  | rrPollHeld hq hd he => exact absurd hen (by simp [mainEnabled_poll_held hq hd he])
  | srHdr b hq hb =>
    obtain ⟨-, -, hj⟩ := (seqOk_srHdr hq).1 hs.seq
    exact srHdr_workLeft_lt b _ hq hj
  | srEmitByte b hq hj hb => exact srEmitByte_workLeft_lt b _ hq hj
  | srEmitDone hq hj =>
    obtain ⟨-, -, hk, -, -⟩ := (seqOk_srEmit hq).1 hs.seq
    exact srEmitDone_workLeft_lt hq hk
  | _ =>
    exact workLeft_lt_of_stage (by simp [State.devicesLeft, rrResetStep, srEnterStep, hostSendT_reg, *])
      (by simp [Seq.stagesLeft, rrResetStep, srEnterStep, *])

/-- A tick while RR_POLL is held brings the deadline nearer. -/
theorem tickEvent_workLeft_lt {s : State} (hq : s.seq = .rrPoll) (htmo : s.reg.tmo < 2 ^ s.cfg.tickW)
    (he : s.elapsed < s.reg.tmo) : (tickEvent s).workLeft < s.workLeft := by
  refine workLeft_lt_of_round rfl rfl ?_
  have helapsed : (tickEvent s).elapsed = s.elapsed + 1 := by
    rw [elapsed_tickEvent, Nat.mod_eq_of_lt (by omega)]
  simp only [State.roundsLeft, hq, show (tickEvent s).seq = .rrPoll from hq, helapsed]
  exact Nat.sub_lt_sub_left he (Nat.lt_succ_self _)

/-! ## The run to IDLE -/

/-- An operation under way without a step is in RR_POLL before its deadline. -/
theorem rrPoll_of_not_mainEnabled {s : State} (hq : s.seq ≠ .idle) (hen : s.mainEnabled = false) :
    s.seq = .rrPoll ∧ s.elapsed < s.reg.tmo := by
  unfold State.mainEnabled at hen
  split at hen
  · next hidle => exact absurd hidle hq
  · next hpoll =>
    simp only [Bool.or_eq_false_iff, State.expired, decide_eq_false_iff_not, Nat.not_le] at hen
    exact ⟨hpoll, hen.2⟩
  · exact Bool.noConfusion hen

/-- With the agenda spent, each step of an operation under way leaves less to do. -/
theorem step_workLeft_lt {s : State} (h : s.Inv) (ha : s.agenda = []) (hq : s.seq ≠ .idle) :
    ∃ t, step s = .next t ∧ t.workLeft < s.workLeft := by
  cases hen : s.mainEnabled with
  | true =>
    obtain ⟨t, hstep⟩ := mainStep_progress h
    exact ⟨t, (step_main_of_nil ha hen).trans hstep, (busyStep_of_mainStep hq hstep).workLeft_lt h hen⟩
  | false =>
    obtain ⟨hpoll, he⟩ := rrPoll_of_not_mainEnabled hq hen
    obtain ⟨-, -, htmo⟩ := (seqOk_rrPoll hpoll).1 h.seq
    exact ⟨_, step_tick_of_nil ha hen, tickEvent_workLeft_lt hpoll htmo he⟩

/-- With the agenda spent, the machine comes to IDLE, by induction on the work left. -/
theorem run_ends {s : State} (h : s.Inv) (ha : s.agenda = []) :
    ∃ n t, Host.Core.run Sys2Proof.core n s = .next t ∧ t.Inv ∧ t.agenda = [] ∧ t.seq = .idle := by
  induction hw : s.workLeft using WellFoundedLT.induction generalizing s with
  | ind w ih =>
    by_cases hq : s.seq = .idle
    · exact ⟨0, s, rfl, h, ha, hq⟩
    · obtain ⟨u, hstep, hlt⟩ := step_workLeft_lt h ha hq
      have hau : u.agenda = [] := by rw [(stepCase_of_step hstep).agenda, ha]; rfl
      obtain ⟨n, t, hrun, hend⟩ := ih u.workLeft (hw ▸ hlt) (everyStepKeepsTheInvariant s u h hstep) hau rfl
      exact ⟨n + 1, t, (run_succ_of_step n hstep).trans hrun, hend⟩

/-- Settles O52: the agenda is spent, then the work left runs out; IDLE is in Relay by the invariant. -/
theorem everyOperationEnds : Obligations.EveryOperationEnds := by
  intro s h
  obtain ⟨u, hspent, hu, hau⟩ := run_spends_agenda h
  obtain ⟨n, t, hrun, ht, hat, hq⟩ := run_ends hu hau
  exact ⟨s.agenda.length + n, t, (run_add hspent).trans hrun, hat, hq, (seqOk_idle hq).1 ht.seq⟩

end Sys2Proof.Machine
end

section
/-! The steps of a batch (44_sync_read.md R147 to R155): the accept step, and the next state of each branch of the SR states. -/

namespace Sys2Proof.Machine

/-! ## Accept -/

/-- Settles O36: the admitted domain is the three bounds. -/
theorem syncReadEntersTheBatch : Obligations.SyncReadEntersTheBatch := by
  intro s a c ids hq h255 hmax hlen
  have hadm : admitted s.cfg (.syncRead a c ids) = true := by
    simp only [admitted, Bool.and_eq_true, decide_eq_true_eq, atMost_iff]
    exact ⟨⟨h255, hmax⟩, hlen⟩
  exact ⟨_, exec_admitted hq hadm, rfl, rfl, rfl, rfl, ⟨fun _ => rfl, rfl⟩, sameOutsideBank_of_frame rfl⟩

/-! ## The states of a batch -/

/-- HostSendT's next state, the flush written as a condition (R147). -/
theorem hostSendT_eq_ite (s : State) (b : Byte) :
    s.hostSendT b =
      { s with
        hostLog := s.hostLog ++ if s.cfg.flushThreshold ≤ s.hostPend + 1 then [.byte b, .flush] else [.byte b]
        hostPend := if s.cfg.flushThreshold ≤ s.hostPend + 1 then 0 else s.hostPend + 1 } := by
  obtain ⟨hreached, e⟩ | ⟨hbelow, e⟩ := hostSendT_cases s b
  · rw [e, if_pos hreached, if_pos hreached, List.append_assoc]; rfl
  · rw [e, if_neg (Nat.not_le.2 hbelow), if_neg (Nat.not_le.2 hbelow)]

theorem mainStep_srHdr_byte {s : State} {b : Byte} (hq : s.seq = .srHdr)
    (hb : (syncHeader s.cfg s.reg.l)[s.reg.j]? = some b) :
    mainStep s = .next (((s.hostSendT b).setReg
      { s.reg with
        sum := if 2 ≤ s.reg.j then s.reg.sum + b else s.reg.sum
        j := s.reg.j + 1
        k := if s.reg.j + 1 = 5 then 0 else s.reg.k }).goto (if s.reg.j + 1 = 5 then .srNext else .srHdr)) := by
  rw [mainStep_srHdr hq, srHdrStep, hb]

theorem mainStep_srNext_device {s : State} {id : Byte} (hq : s.seq = .srNext) (hid : s.reg.ids[s.reg.k]? = some id) :
    mainStep s = .next ((s.setReg { s.reg with t := id }).goto .rrReset) := by
  rw [mainStep_srNext hq, srNextStep, hid]

theorem mainStep_srNext_done {s : State} (hq : s.seq = .srNext) (hk : s.reg.ids.length ≤ s.reg.k) :
    mainStep s = .next (s.goto .srCk) := by
  rw [mainStep_srNext hq, srNextStep, List.getElem?_eq_none hk]

theorem mainStep_srEmit_byte {s : State} {b : Byte} (hq : s.seq = .srEmit) (hj : s.reg.j < s.reg.c.toNat)
    (hb : s.reg.slice[s.reg.j]? = some b) :
    mainStep s = .next ((s.hostSendT b).setReg { s.reg with sum := s.reg.sum + b, j := s.reg.j + 1 }) := by
  rw [mainStep_srEmit hq, srEmitStep, if_pos hj, hb]

theorem mainStep_srEmit_done {s : State} (hq : s.seq = .srEmit) (hj : s.reg.c.toNat ≤ s.reg.j) :
    mainStep s = .next ((s.setReg { s.reg with k := s.reg.k + 1 }).goto .srNext) := by
  rw [mainStep_srEmit hq, srEmitStep, if_neg (Nat.not_lt.2 hj)]

/-- Settles O37: each clause is its state's branch, with the move off the agenda; the fifth header byte is number 4. -/
theorem batchVisitsDevicesInOrder : Obligations.BatchVisitsDevicesInOrder := by
  intro s hm
  rw [step_of_nextMove hm, takeMove]
  refine ⟨mainStep_srEnter (s := afterAgenda s), fun b hq hb => ?_,
    fun _ => mainStep_srNext_device (s := afterAgenda s), mainStep_srNext_done (s := afterAgenda s),
    fun b hq hj hb => ?_, mainStep_srEmit_done (s := afterAgenda s), mainStep_srExit (s := afterAgenda s)⟩
  · rw [mainStep_srHdr_byte (s := afterAgenda s) hq hb, hostSendT_eq_ite]
    simp only [afterAgenda_reg, Nat.reduceEqDiff]
    rfl
  · rw [mainStep_srEmit_byte (s := afterAgenda s) hq hj hb, hostSendT_eq_ite]
    rfl

/-! ## The end of a batch -/

/-- The checksum byte as one subtraction of natural numbers (R153). -/
theorem byte_255_sub (b : Byte) : byte 255 - b = byte (255 - b.toNat) := by
  have hb := b.isLt
  apply BitVec.eq_of_toNat_eq
  rw [byte_toNat (by omega), BitVec.toNat_sub_of_le (by rw [BitVec.le_def]; exact Nat.le_of_lt_succ hb)]
  rfl

/-- SR_CK and SR_FLUSH: whether the threshold flushes the checksum byte or SR_FLUSH does, one flush follows it. -/
theorem srFlushStep_srCkStep (s : State) :
    srFlushStep (srCkStep s) =
      { s with
        hostLog := s.hostLog ++ [.byte (byte (255 - s.reg.sum.toNat)), .flush], hostPend := 0, seq := .srExit } := by
  rw [srCkStep, byte_255_sub]
  obtain ⟨-, e⟩ | ⟨-, e⟩ := hostSendT_cases s (byte (255 - s.reg.sum.toNat)) <;> rw [e]
  · simp [srFlushStep, State.goto]
  · simp [srFlushStep, State.hostFlush, State.goto]

/-- Settles O41: the two steps, as one chain of moves. -/
theorem batchEndsWithChecksumAndFlush : Obligations.BatchEndsWithChecksumAndFlush := by
  intro s more hq ha
  have hmoves : MovesTo s [.main, .main] (srFlushStep (srCkStep s)) :=
    .main (mainStep_srCk hq) (.main (mainStep_srFlush rfl) (.nil _))
  refine ⟨_, hmoves.run ha, ?_⟩
  rw [srFlushStep_srCkStep]
  exact ⟨rfl, rfl, rfl, rfl⟩

end Sys2Proof.Machine
end

section
/-! What a batch has sent (44_sync_read.md R149 to R157): the clauses of `State.Streamed` state by state, how each byte sent and
each device done moves them, and the frame a run from SR_ENTER to SR_EXIT sends. -/

namespace Sys2Proof.Machine

/-! ## The stream's clauses -/

/-- The header's first `J` bytes are sent, and SUM is the sum of those past the two `0xFF` (R150). -/
def State.SentHeader (base : List HostEvent) (s : State) : Prop :=
  s.reg.l = byte (2 + s.reg.c.toNat * s.reg.ids.length) ∧
    hostBytes s.hostLog = hostBytes base ++ (syncHeader s.cfg s.reg.l).take s.reg.j ∧
    s.reg.sum = byte (sumBytes (((syncHeader s.cfg s.reg.l).take s.reg.j).drop 2))

/-- The header and then the bytes `bs` are sent, and SUM is their sum past the two `0xFF` (R152). -/
def State.SentPast (base : List HostEvent) (s : State) (bs : List Byte) : Prop :=
  s.reg.l = byte (2 + s.reg.c.toNat * s.reg.ids.length) ∧
    hostBytes s.hostLog = hostBytes base ++ syncHeader s.cfg s.reg.l ++ bs ∧
    s.reg.sum = byte (sumBytes ([s.cfg.bridgeId, s.reg.l, errNone] ++ bs))

/-- SR_NEXT and the states of a transaction, in which a batch sends the host no byte. -/
def Seq.betweenSlices : Seq → Bool
  | .srNext | .rrReset | .rrDrive | .rrTx | .rrListen | .rrArm | .rrPoll | .rrCheck | .rrExit => true
  | _ => false

section
variable {base : List HostEvent} {s : State} {slices : List Byte}

theorem streamed_srHdr (hq : s.seq = .srHdr) : s.Streamed base slices ↔ slices = [] ∧ s.SentHeader base := by
  simp [State.Streamed, State.SentHeader, hq]

theorem streamed_between {q : Seq} (hq : s.seq = q) (hb : q.betweenSlices = true) :
    s.Streamed base slices ↔ slices.length = s.reg.c.toNat * s.reg.k ∧ s.SentPast base slices := by
  cases q with
  | srNext | rrReset | rrDrive | rrTx | rrListen | rrArm | rrPoll | rrCheck | rrExit =>
    simp [State.Streamed, State.SentPast, hq]
  | _ => cases hb

theorem streamed_srEmit (hq : s.seq = .srEmit) :
    s.Streamed base slices ↔
      slices.length = s.reg.c.toNat * s.reg.k ∧ s.SentPast base (slices ++ s.reg.slice.take s.reg.j) := by
  simp [State.Streamed, State.SentPast, hq]

theorem streamed_srCk (hq : s.seq = .srCk) :
    s.Streamed base slices ↔ slices.length = s.reg.c.toNat * s.reg.ids.length ∧ s.SentPast base slices := by
  simp [State.Streamed, State.SentPast, hq]

theorem streamed_srFlush (hq : s.seq = .srFlush) :
    s.Streamed base slices ↔ slices.length = s.reg.c.toNat * s.reg.ids.length ∧
      hostBytes s.hostLog = hostBytes base ++ mkframe s.cfg.bridgeId errNone slices := by
  simp [State.Streamed, hq]

theorem streamed_srExit (hq : s.seq = .srExit) :
    s.Streamed base slices ↔ slices.length = s.reg.c.toNat * s.reg.ids.length ∧
      hostBytes s.hostLog = hostBytes base ++ mkframe s.cfg.bridgeId errNone slices := by
  simp [State.Streamed, hq]

/-- Before SR_ENTER's step there is no stream. -/
theorem State.Streamed.seq_ne (h : s.Streamed base slices) : s.seq ≠ .idle ∧ s.seq ≠ .rrEnter ∧ s.seq ≠ .srEnter := by
  refine ⟨?_, ?_, ?_⟩ <;> intro hq <;> simp [State.Streamed, hq] at h

/-- The stream's clauses read the configuration, SEQ, the working registers and the host bytes only. -/
theorem State.Streamed.congr {t : State} (h : s.Streamed base slices) (hcfg : t.cfg = s.cfg) (hseq : t.seq = s.seq)
    (hreg : t.reg = s.reg) (hlog : t.hostLog = s.hostLog) : t.Streamed base slices := by
  unfold State.Streamed at h ⊢
  rwa [hcfg, hseq, hreg, hlog]

/-- A batch past SR_ENTER holds the mode (R149). -/
theorem State.Streamed.divert (h : s.Streamed base slices) (hs : s.Inv) : s.mode = .divert := by
  obtain ⟨hidle, hrrEnter, hsrEnter⟩ := h.seq_ne
  have hok := hs.seq
  cases hq : s.seq with
  | idle => exact absurd hq hidle
  | rrEnter => exact absurd hq hrrEnter
  | srEnter => exact absurd hq hsrEnter
  | rrReset | rrListen | rrArm | srCk | srFlush | srExit | srHdr | srNext | srEmit =>
    simp only [State.SeqOk, hq] at hok
    exact hok.1
  | rrDrive | rrTx | rrPoll | rrCheck | rrExit =>
    simp only [State.SeqOk, hq] at hok
    exact hok.1.1

/-! ## A byte sent -/

theorem sentPast_hostSendT {bs : List Byte} (b : Byte) (h : s.SentPast base bs) :
    ((s.hostSendT b).setReg { s.reg with sum := s.reg.sum + b, j := s.reg.j + 1 }).SentPast base (bs ++ [b]) := by
  obtain ⟨hl, hlog, hsum⟩ := h
  have hcfg : (s.hostSendT b).cfg = s.cfg := by rw [hostSendT_eq]
  refine ⟨hl, ?_, ?_⟩
  · simp only [State.setReg_hostLog, State.setReg_reg, State.setReg_cfg, hostSendT_hostBytes, hcfg, hlog, List.append_assoc]
  · simp only [State.setReg_reg, State.setReg_cfg, hcfg, hsum, byte_sum_snoc, List.append_assoc]

/-- The header's bytes past the two `0xFF` enter SUM (R150). -/
theorem byte_sum_drop_two_snoc (xs : List Byte) (b : Byte) :
    byte (sumBytes ((xs ++ [b]).drop 2)) =
      if 2 ≤ xs.length then byte (sumBytes (xs.drop 2)) + b else byte (sumBytes (xs.drop 2)) := by
  split
  · next h => rw [List.drop_append_of_le_length h, byte_sum_snoc]
  · next h => rw [List.drop_of_length_le (by simp; omega), List.drop_of_length_le (by omega)]

theorem sentHeader_hostSendT {b : Byte} (k : Nat) (q : Seq) (hb : (syncHeader s.cfg s.reg.l)[s.reg.j]? = some b)
    (h : s.SentHeader base) :
    (((s.hostSendT b).setReg
      { s.reg with
        sum := if 2 ≤ s.reg.j then s.reg.sum + b else s.reg.sum
        j := s.reg.j + 1
        k := k }).goto q).SentHeader base := by
  obtain ⟨hl, hlog, hsum⟩ := h
  have hcfg : (s.hostSendT b).cfg = s.cfg := by rw [hostSendT_eq]
  obtain ⟨hj, -⟩ := List.getElem?_eq_some_iff.1 hb
  have htake : (syncHeader s.cfg s.reg.l).take (s.reg.j + 1) = (syncHeader s.cfg s.reg.l).take s.reg.j ++ [b] := by
    rw [List.take_add_one, hb]; rfl
  have hlen : ((syncHeader s.cfg s.reg.l).take s.reg.j).length = s.reg.j := List.length_take_of_le hj.le
  refine ⟨hl, ?_, ?_⟩
  · simp only [State.goto_hostLog, State.goto_reg, State.goto_cfg, State.setReg_hostLog, State.setReg_reg,
      State.setReg_cfg, hostSendT_hostBytes, hcfg, hlog, htake, List.append_assoc]
  · simp only [State.goto_reg, State.goto_cfg, State.setReg_reg, State.setReg_cfg, hcfg, htake,
      byte_sum_drop_two_snoc, hlen, hsum]

/-- All five header bytes sent, no slice byte yet. -/
theorem State.SentHeader.sentPast (h : s.SentHeader base) (hj : s.reg.j = 5) : s.SentPast base [] := by
  obtain ⟨hl, hlog, hsum⟩ := h
  rw [hj] at hlog hsum
  exact ⟨hl, by rw [hlog, List.append_nil]; rfl, hsum⟩

/-- The byte SR_CK sends completes the frame (R153). -/
theorem hostBytes_of_srCk (hlen : slices.length = s.reg.c.toNat * s.reg.ids.length) (h : s.SentPast base slices) :
    hostBytes (s.hostSendT (byte 255 - s.reg.sum)).hostLog =
      hostBytes base ++ mkframe s.cfg.bridgeId errNone slices := by
  obtain ⟨hl, hlog, hsum⟩ := h
  rw [hostSendT_hostBytes, hlog, hsum, byte_sub_sum, mkframe, frameck, hl, hlen, Nat.add_comm 2]
  simp [syncHeader]

/-! ## A step of the main sequencer -/

theorem streamed_after_srHdr {b : Byte} (hq : s.seq = .srHdr)
    (hb : (syncHeader s.cfg s.reg.l)[s.reg.j]? = some b) (h : s.Streamed base slices) :
    (((s.hostSendT b).setReg
      { s.reg with
        sum := if 2 ≤ s.reg.j then s.reg.sum + b else s.reg.sum
        j := s.reg.j + 1
        k := if s.reg.j + 1 = 5 then 0 else s.reg.k }).goto
      (if s.reg.j + 1 = 5 then .srNext else .srHdr)).Streamed base slices := by
  obtain ⟨rfl, hheader⟩ := (streamed_srHdr hq).1 h
  by_cases hlast : s.reg.j + 1 = 5
  · simp only [if_pos hlast]
    exact (streamed_between rfl rfl).2 ⟨rfl, (sentHeader_hostSendT 0 .srNext hb hheader).sentPast hlast⟩
  · simp only [if_neg hlast]
    exact (streamed_srHdr rfl).2 ⟨rfl, sentHeader_hostSendT s.reg.k .srHdr hb hheader⟩

theorem streamed_after_srEmitByte {b : Byte} (hq : s.seq = .srEmit) (hb : s.reg.slice[s.reg.j]? = some b)
    (h : s.Streamed base slices) :
    ((s.hostSendT b).setReg { s.reg with sum := s.reg.sum + b, j := s.reg.j + 1 }).Streamed base slices := by
  obtain ⟨hlen, hsent⟩ := (streamed_srEmit hq).1 h
  have hsent' := sentPast_hostSendT b hsent
  have htake : s.reg.slice.take (s.reg.j + 1) = s.reg.slice.take s.reg.j ++ [b] := by rw [List.take_add_one, hb]; rfl
  rw [List.append_assoc, ← htake] at hsent'
  refine (streamed_srEmit ?_).2 ⟨hlen, hsent'⟩
  exact (hostSendT_seq s b).trans hq

/-- After its `C` bytes a device's slice is one of the slices done. -/
theorem streamed_after_srEmitDone (hs : s.Inv) (hq : s.seq = .srEmit) (hj : s.reg.c.toNat ≤ s.reg.j)
    (h : s.Streamed base slices) :
    ((s.setReg { s.reg with k := s.reg.k + 1 }).goto .srNext).Streamed base (slices ++ s.reg.slice) := by
  obtain ⟨-, -, -, hslice, -⟩ := (seqOk_srEmit hq).1 hs.seq
  obtain ⟨hlen, hsent⟩ := (streamed_srEmit hq).1 h
  rw [List.take_of_length_le (hslice.trans_le hj)] at hsent
  exact (streamed_between rfl rfl).2 ⟨by rw [List.length_append, hlen, hslice]; rfl, hsent⟩

theorem streamed_after_srNextDone (hs : s.Inv) (hq : s.seq = .srNext) (hk : s.reg.ids.length ≤ s.reg.k)
    (h : s.Streamed base slices) : (s.goto .srCk).Streamed base slices := by
  obtain ⟨-, -, hk'⟩ := (seqOk_srNext hq).1 hs.seq
  obtain ⟨hlen, hsent⟩ := (streamed_between hq rfl).1 h
  exact (streamed_srCk rfl).2 ⟨hlen.trans (congrArg _ (hk'.antisymm hk)), hsent⟩

theorem streamed_after_srCk (hq : s.seq = .srCk) (h : s.Streamed base slices) :
    ((s.hostSendT (byte 255 - s.reg.sum)).goto .srFlush).Streamed base slices := by
  obtain ⟨hlen, hsent⟩ := (streamed_srCk hq).1 h
  have hframe := hostBytes_of_srCk hlen hsent
  rw [hostSendT_eq] at hframe ⊢
  exact (streamed_srFlush rfl).2 ⟨hlen, hframe⟩

theorem streamed_after_srFlushPending (hq : s.seq = .srFlush) (h : s.Streamed base slices) :
    (s.hostFlush.goto .srExit).Streamed base slices := by
  obtain ⟨hlen, hframe⟩ := (streamed_srFlush hq).1 h
  exact (streamed_srExit rfl).2 ⟨hlen, by simpa [hostBytes_append, hostBytes] using hframe⟩

/-- Every step of a batch before SR_EXIT's keeps the stream, the slices growing by the device's where SR_EMIT is done. -/
theorem BusyStep.streamed {t : State} (hb : BusyStep s t) (hs : s.Inv) (hbatch : s.InBatch) (hexit : s.seq ≠ .srExit)
    (h : s.Streamed base slices) :
    t.Streamed base slices ∨ s.seq = .srEmit ∧ t.Streamed base (slices ++ s.reg.slice) := by
  obtain ⟨-, hrrEnter, hsrEnter⟩ := h.seq_ne
  obtain ⟨howner, -⟩ := hbatch
  cases hb with
  | rrEnterOwner hq | rrEnterInner hq => exact absurd hq hrrEnter
  | rrExitOwner hq ho => exact absurd (ho.symm.trans howner) Bool.noConfusion
  | srEnter hq => exact absurd hq hsrEnter
  | srExit hq => exact absurd hq hexit
  | rrPollHeld => exact .inl h
  | rrReset hq | rrDrive hq | rrListen hq | rrArm hq | rrPollDone hq | rrPollExpired hq | rrCheckValid hq
  | rrCheckInvalid hq | srNextDevice _ hq =>
    exact .inl ((streamed_between rfl rfl).2 ((streamed_between hq rfl).1 h))
  | rrTx b hq hb =>
    have hnext : (if s.reg.i + 1 = 8 then Seq.rrListen else .rrTx).betweenSlices = true := by split <;> rfl
    exact .inl ((streamed_between rfl hnext).2 ((streamed_between hq rfl).1 h))
  | rrExitInner hq ho =>
    obtain ⟨hlen, hsent⟩ := (streamed_between hq rfl).1 h
    rw [← List.append_nil slices] at hsent
    exact .inl ((streamed_srEmit rfl).2 ⟨hlen, hsent⟩)
  | srHdr b hq hb => exact .inl (streamed_after_srHdr hq hb h)
  | srNextDone hq hk => exact .inl (streamed_after_srNextDone hs hq hk h)
  | srEmitByte b hq hj hb => exact .inl (streamed_after_srEmitByte hq hb h)
  | srEmitDone hq hj => exact .inr ⟨hq, streamed_after_srEmitDone hs hq hj h⟩
  | srCk hq => exact .inl (streamed_after_srCk hq h)
  | srFlushPending hq => exact .inl (streamed_after_srFlushPending hq h)
  | srFlushNone hq => exact .inl ((streamed_srExit rfl).2 ((streamed_srFlush hq).1 h))

/-! ## A step of the machine -/

/-- No step under way writes the operands or OWNER that accept latched (R35, R39). -/
theorem BusyStep.latched {t : State} (h : BusyStep s t) :
    t.reg.c = s.reg.c ∧ t.reg.ids = s.reg.ids ∧ t.reg.owner = s.reg.owner := by
  cases h with
  | srCk => rw [State.goto_reg, hostSendT_reg]; exact ⟨rfl, rfl, rfl⟩
  | _ => exact ⟨rfl, rfl, rfl⟩

theorem StepCase.latched {t : State} (h : StepCase s t) (hq : s.seq ≠ .idle) (hreset : nextMove s ≠ .reset) :
    t.reg.c = s.reg.c ∧ t.reg.ids = s.reg.ids ∧ t.reg.owner = s.reg.owner := by
  cases h with
  | idle hm hidle => exact absurd hidle hq
  | busy hm hb => exact hb.latched
  | arrive b hm => rw [arriveEvent_eq]; exact ⟨rfl, rfl, rfl⟩
  | reset hm => exact absurd hm hreset
  | tick | present => exact ⟨rfl, rfl, rfl⟩

/-- An arrival in a batch is captured, so only the main sequencer's steps write the stream. -/
theorem StepCase.streamed {t : State} (hstep : StepCase s t) (hs : s.Inv) (hbatch : s.InBatch)
    (hreset : nextMove s ≠ .reset) (hexit : ¬(s.seq = .srExit ∧ s.mainNext)) (h : s.Streamed base slices) :
    t.Streamed base slices ∨ s.seq = .srEmit ∧ t.Streamed base (slices ++ s.reg.slice) := by
  obtain ⟨hidle, -, -⟩ := h.seq_ne
  cases hstep with
  | idle hm hq => exact absurd hq hidle
  | busy hm hb => exact hb.streamed (afterAgenda_inv hs) hbatch (fun hq => hexit ⟨hq, hm⟩) h
  | arrive b hm =>
    have hcapture : (arriveEvent b (afterAgenda s)).hostLog = s.hostLog := by
      rw [arriveEvent_divert (s := afterAgenda s) b (h.divert hs), capture_hostLog]; rfl
    exact .inl (h.congr (arriveEvent_cfg b _) (by rw [arriveEvent_eq]; rfl) (by rw [arriveEvent_eq]; rfl) hcapture)
  | reset hm => exact absurd hm hreset
  | tick | present => exact .inl (h.congr rfl rfl rfl rfl)

end

/-! ## A batch since SR_ENTER -/

/-- The machine is at `u` in the batch that began at `s` in SR_ENTER, with `slices` the slices of the devices done. -/
structure State.BatchSince (s u : State) (slices : List Byte) : Prop where
  inv : u.Inv
  inBatch : u.InBatch
  cfg : u.cfg = s.cfg
  c : u.reg.c = s.reg.c
  ids : u.reg.ids = s.reg.ids
  resLog : u.resLog = s.resLog
  streamed : u.Streamed s.hostLog slices

theorem batchSince_srEnter {s t : State} (h : s.Inv) (hq : s.seq = .srEnter) (hm : s.mainNext)
    (hstep : step s = .next t) : s.BatchSince t [] := by
  have ht := everyStepKeepsTheInvariant s t h hstep
  rw [step_of_nextMove hm, takeMove, mainStep_srEnter (s := afterAgenda s) hq] at hstep
  cases hstep
  exact
    { inv := ht
      inBatch := ((seqOk_srEnter hq).1 h.seq).2
      cfg := rfl
      c := rfl
      ids := rfl
      resLog := rfl
      streamed := (streamed_srHdr rfl).2 ⟨rfl, rfl, (List.append_nil _).symm, rfl⟩ }

/-- Settles O38: SR_ENTER's step begins the stream, and any later one keeps it or adds the slice of a device done. -/
theorem batchKeepsItsStreamAndSum : Obligations.BatchKeepsItsStreamAndSum := by
  constructor
  · intro s t h hq hm hstep
    have hbegun := batchSince_srEnter h hq hm hstep
    exact ⟨hbegun.inBatch, hbegun.streamed⟩
  · intro base s t slices h hbatch hs hreset hexit hstep
    have hcase := stepCase_of_step hstep
    obtain ⟨hc, hids, howner⟩ := hcase.latched hs.seq_ne.1 hreset
    refine ⟨?_, hc, hids, ?_⟩
    · rw [State.InBatch, hc, hids, howner]
      exact hbatch
    · obtain hkept | ⟨-, hgrown⟩ := hcase.streamed h hbatch hreset hexit hs
      · exact ⟨slices, List.prefix_rfl, hkept⟩
      · exact ⟨slices ++ s.reg.slice, List.prefix_append _ _, hgrown⟩

/-- A step of a batch that is neither a reset nor SR_EXIT's stays in the batch. -/
theorem State.BatchSince.step {s u v : State} {slices : List Byte} (h : s.BatchSince u slices)
    (hreset : nextMove u ≠ .reset) (hexit : ¬(u.seq = .srExit ∧ u.mainNext)) (hstep : step u = .next v) :
    s.BatchSince v slices ∨ u.seq = .srEmit ∧ s.BatchSince v (slices ++ u.reg.slice) := by
  have hcase := stepCase_of_step hstep
  obtain ⟨hc, hids, howner⟩ := hcase.latched h.streamed.seq_ne.1 hreset
  have hv := everyStepKeepsTheInvariant u v h.inv hstep
  have hbatch : v.InBatch := by
    rw [State.InBatch, hc, hids, howner]
    exact h.inBatch
  have since {slices' : List Byte} (hs : v.Streamed s.hostLog slices') : s.BatchSince v slices' :=
    { inv := hv
      inBatch := hbatch
      cfg := hcase.cfg.trans h.cfg
      c := hc.trans h.c
      ids := hids.trans h.ids
      resLog := by
        -- a result would be valid, and in IDLE only
        obtain ⟨hlog, -⟩ | ⟨-, hvalid, -⟩ := hcase.resLog_cases
        · exact hlog.trans h.resLog
        · exact absurd (hv.seq_idle hvalid) hs.seq_ne.1
      streamed := hs }
  exact (hcase.streamed h.inv h.inBatch hreset hexit h.streamed).imp since (.imp_right since)

/-- At SR_EXIT the frame is sent: `C` bytes for each device, in one valid frame (R156, R157). -/
theorem State.BatchSince.frame {s u : State} {slices : List Byte} (h : s.BatchSince u slices) (hq : u.seq = .srExit) :
    slices.length = s.reg.c.toNat * s.reg.ids.length ∧
      hostBytes u.hostLog = hostBytes s.hostLog ++ mkframe s.cfg.bridgeId errNone slices := by
  rw [← h.c, ← h.ids, ← h.cfg]
  exact (streamed_srExit hq).1 h.streamed

/-- On an agenda without resets the next move is not a reset. -/
theorem nextMove_ne_reset {s : State} (h : ∀ m ∈ s.agenda, m ≠ .reset) : nextMove s ≠ .reset := by
  unfold nextMove
  split
  · next m ms ha => exact h m (ha ▸ List.mem_cons_self)
  · split <;> exact Move.noConfusion

theorem StepCase.agenda_noReset {s t : State} (h : StepCase s t) (ha : ∀ m ∈ s.agenda, m ≠ .reset) :
    ∀ m ∈ t.agenda, m ≠ .reset := by
  rw [h.agenda]
  exact fun m hm => ha m (List.mem_of_mem_tail hm)

theorem step_srExit {s t : State} (hq : s.seq = .srExit) (hm : s.mainNext) (hstep : step s = .next t) :
    t = srExitStep (afterAgenda s) := by
  rw [step_of_nextMove hm, takeMove, mainStep_srExit (s := afterAgenda s) hq] at hstep
  injection hstep with h
  exact h.symm

/-- A run without resets and without IDLE stays in the batch. -/
theorem run_batchSince (n : Nat) {s u t : State} {slices : List Byte} (h : s.BatchSince u slices)
    (hagenda : ∀ m ∈ u.agenda, m ≠ .reset)
    (hbusy : ∀ k, k ≤ n → ∃ v, Host.Core.run Sys2Proof.core k u = .next v ∧ v.seq ≠ .idle)
    (hrun : Host.Core.run Sys2Proof.core n u = .next t) : ∃ slices', s.BatchSince t slices' := by
  induction n generalizing u slices with
  | zero =>
    injection hrun with hut
    exact ⟨slices, hut ▸ h⟩
  | succ n ih =>
    obtain ⟨v, hstep⟩ := step_progress h.inv
    have hnext (k : Nat) : Host.Core.run Sys2Proof.core (k + 1) u = Host.Core.run Sys2Proof.core k v :=
      run_succ_of_step k hstep
    have hv : v.seq ≠ .idle := by
      obtain ⟨w, hw, hne⟩ := hbusy 1 (Nat.le_add_left 1 n)
      rw [hnext 0] at hw
      injection hw with hvw
      exact hvw ▸ hne
    have hexit : ¬(u.seq = .srExit ∧ u.mainNext) := fun ⟨hq, hm⟩ => hv (by rw [step_srExit hq hm hstep]; rfl)
    have hagenda' := (stepCase_of_step hstep).agenda_noReset hagenda
    have hbusy' (k : Nat) (hk : k ≤ n) : ∃ w, Host.Core.run Sys2Proof.core k v = .next w ∧ w.seq ≠ .idle :=
      hnext k ▸ hbusy (k + 1) (Nat.succ_le_succ hk)
    rw [hnext n] at hrun
    obtain hkept | ⟨-, hgrown⟩ := h.step (nextMove_ne_reset hagenda) hexit hstep
    · exact ih hkept hagenda' hbusy' hrun
    · exact ih hgrown hagenda' hbusy' hrun

/-- Settles O39: the run past SR_ENTER's step stays in the batch, which has sent its frame at SR_EXIT. -/
theorem syncReadStreamsOneStatusFrame : Obligations.SyncReadStreamsOneStatusFrame := by
  intro s t n h hq hm hagenda hbusy hrun ht
  cases n with
  | zero =>
    injection hrun with hst
    exact absurd (hq.symm.trans (hst ▸ ht)) Seq.noConfusion
  | succ n =>
    obtain ⟨u, hstep⟩ := step_progress h
    have hnext (k : Nat) : Host.Core.run Sys2Proof.core (k + 1) s = Host.Core.run Sys2Proof.core k u :=
      run_succ_of_step k hstep
    have hagenda' := (stepCase_of_step hstep).agenda_noReset hagenda
    rw [hnext n] at hrun
    have hbusy' (k : Nat) (hk : k ≤ n) : ∃ v, Host.Core.run Sys2Proof.core k u = .next v ∧ v.seq ≠ .idle := by
      obtain hlt | rfl := hk.lt_or_eq
      · exact hnext k ▸ hbusy (k + 1) (Nat.succ_lt_succ hlt)
      · exact ⟨t, hrun, by rw [ht]; exact Seq.noConfusion⟩
    obtain ⟨slices, hbatch⟩ := run_batchSince n (batchSince_srEnter h hq hm hstep) hagenda' hbusy' hrun
    obtain ⟨hlen, hframe⟩ := hbatch.frame ht
    exact ⟨slices, hlen, hframe, validate_mkframe _ _ _⟩

end Sys2Proof.Machine
end

section
/-! A batch on a silent bus (44_sync_read.md R149 to R155, R159): with no bytes captured every transaction times out, so every
slice is sentinels, and the run ends. -/

namespace Sys2Proof.Machine

/-- What holds in a batch on a silent bus: nothing is captured since RR_RESET, a transaction ends in its timeout, and the slice
is sentinels. -/
def State.Silent (s : State) : Prop :=
  match s.seq with
  | .rrDrive | .rrTx | .rrListen | .rrArm | .rrPoll => s.capCnt = 0
  | .rrCheck => False
  | .rrExit => s.reg.rrst = .timeout
  | .srEmit => s.reg.slice = List.replicate s.reg.c.toNat sentinel
  | _ => True

theorem BusyStep.silent {s t : State} (hb : BusyStep s t) (h : s.Silent) (howner : s.reg.owner = false) : t.Silent := by
  cases hb with
  | rrReset => exact rfl
  | rrDrive hq | rrListen hq | rrArm hq => simpa [State.Silent, hq] using h
  | rrTx b hq hb =>
    have hcap : s.capCnt = 0 := by simpa [State.Silent, hq] using h
    split <;> exact hcap
  | rrPollDone hq hd =>
    have hcap : s.capCnt = 0 := by simpa [State.Silent, hq] using h
    omega
  | rrPollExpired => exact rfl
  | rrPollHeld => exact h
  | rrCheckValid hq | rrCheckInvalid hq => simp [State.Silent, hq] at h
  | rrExitOwner hq ho => exact absurd (ho.symm.trans howner) Bool.noConfusion
  | rrExitInner hq =>
    have hrrst : s.reg.rrst = .timeout := by simpa [State.Silent, hq] using h
    simp [State.Silent, hrrst]
  | srHdr => split <;> trivial
  | srEmitByte b hq => simpa [State.Silent, hq, hostSendT_seq] using h
  | _ => trivial

/-- The machine is at `u`, on the default schedule, in the batch that began at `s`, and the bus was silent: all slice bytes are
sentinels. -/
structure State.SilentSince (s u : State) (slices : List Byte) : Prop where
  batch : s.BatchSince u slices
  silent : u.Silent
  sentinels : ∀ b ∈ slices, b = sentinel
  agenda : u.agenda = []

/-- On the default schedule no move is an arrival: a step is the main sequencer's or a tick. -/
theorem State.SilentSince.step {s u v : State} {slices : List Byte} (h : s.SilentSince u slices) (hexit : u.seq ≠ .srExit)
    (hstep : step u = .next v) : ∃ slices', s.SilentSince v slices' := by
  have hreset : nextMove u ≠ .reset := nextMove_ne_reset (by simp [h.agenda])
  have hagenda : v.agenda = [] := by rw [(stepCase_of_step hstep).agenda, h.agenda]; rfl
  have hsilent : v.Silent := by
    cases hen : u.mainEnabled with
    | true =>
      rw [step_main_of_nil h.agenda hen] at hstep
      exact (busyStep_of_mainStep h.batch.streamed.seq_ne.1 hstep).silent h.silent h.batch.inBatch.1
    | false =>
      rw [step_tick_of_nil h.agenda hen] at hstep
      cases hstep
      exact h.silent
  obtain hkept | ⟨hq, hgrown⟩ := h.batch.step hreset (fun he => hexit he.1) hstep
  · exact ⟨_, hkept, hsilent, h.sentinels, hagenda⟩
  · have hslice : u.reg.slice = List.replicate u.reg.c.toNat sentinel := by simpa [State.Silent, hq] using h.silent
    refine ⟨_, hgrown, hsilent, fun b hb => ?_, hagenda⟩
    obtain hb | hb := List.mem_append.1 hb
    · exact h.sentinels b hb
    · rw [hslice] at hb
      exact List.eq_of_mem_replicate hb

/-- A batch on a silent bus comes to SR_EXIT, by induction on the work left. -/
theorem run_silent {s u : State} {slices : List Byte} (h : s.SilentSince u slices) :
    ∃ n t slices', Host.Core.run Sys2Proof.core n u = .next t ∧ s.SilentSince t slices' ∧ t.seq = .srExit := by
  induction hw : u.workLeft using WellFoundedLT.induction generalizing u slices with
  | ind w ih =>
    by_cases hq : u.seq = .srExit
    · exact ⟨0, u, slices, rfl, h, hq⟩
    · obtain ⟨v, hstep, hlt⟩ := step_workLeft_lt h.batch.inv h.agenda h.batch.streamed.seq_ne.1
      obtain ⟨slices', hv⟩ := h.step hq hstep
      obtain ⟨n, t, slices'', hrun, hend⟩ := ih v.workLeft (hw ▸ hlt) hv rfl
      exact ⟨n + 1, t, slices'', (run_succ_of_step n hstep).trans hrun, hend⟩

/-- The frame of a silent batch: a sentinel for each of the `C` bytes of each device (R159). -/
theorem State.SilentSince.frame {s u : State} {slices : List Byte} (h : s.SilentSince u slices) (hq : u.seq = .srExit) :
    hostBytes u.hostLog = hostBytes s.hostLog ++
      mkframe s.cfg.bridgeId errNone (List.replicate (s.reg.c.toNat * s.reg.ids.length) sentinel) := by
  obtain ⟨hlen, hframe⟩ := h.batch.frame hq
  rwa [List.eq_replicate_iff.2 ⟨hlen, h.sentinels⟩] at hframe

/-- Settles O40: SR_ENTER's step, the run to SR_EXIT, and SR_EXIT's step. -/
theorem silentBusGivesAFrameOfSentinels : Obligations.SilentBusGivesAFrameOfSentinels := by
  intro s h hq ha
  have hen : s.mainEnabled = true := by simp [State.mainEnabled, hq]
  have hm : s.mainNext := by simp [State.mainNext, nextMove, ha, hen]
  have hstep : step s = .next (srEnterStep s) := (step_main_of_nil ha hen).trans (mainStep_srEnter hq)
  have hbegun : s.SilentSince (srEnterStep s) [] := ⟨batchSince_srEnter h hq hm hstep, trivial, by simp, ha⟩
  obtain ⟨n, t, slices, hrun, hsilent, htq⟩ := run_silent hbegun
  have hexit : step t = .next (srExitStep t) :=
    (step_main_of_nil hsilent.agenda (by simp [State.mainEnabled, htq])).trans (mainStep_srExit htq)
  refine ⟨n + 1 + 1, srExitStep t, ?_, rfl, rfl, rfl, rfl, ?_, hsilent.frame htq⟩
  · rw [run_succ_of_step (n + 1) hstep, run_add hrun, run_succ_of_step 0 hexit]
    rfl
  · exact congrArg (· ++ [⟨0, []⟩]) hsilent.batch.resLog

end Sys2Proof.Machine
end

section
/-! Every fair run ends every operation (60_exceptions.md R171, R172, R183): a run keeps the invariant under any schedule; until
the main sequencer takes a step it has, or a reset cuts in, the operation stays where it is; fairness gives that step, and each
such step leaves less of the operation to do. -/

namespace Sys2Proof.Machine

/-- Settles O51: the next move is an event, or the main sequencer's, whose indices the invariant keeps in their lists. -/
theorem invariantStatesNeverStop : Obligations.InvariantStatesNeverStop := fun _ h => step_progress h

section Run

variable {σ : Nat → Move} {ρ : Nat → State}

/-! ## A move as a step -/

theorem step_of_takeMove {m : Move} {s t : State} (h : takeMove m s = .next t) :
    step (s.withAgenda [m]) = .next (t.withAgenda []) := by
  rw [step_withAgenda_cons, h]
  rfl

theorem takeMove_inv {m : Move} {s t : State} (hs : s.Inv) (h : takeMove m s = .next t) : t.Inv :=
  (everyStepKeepsTheInvariant _ _ (hs.of_eq rfl) (step_of_takeMove h)).of_eq rfl

theorem takeMove_tick {m : Move} {s t : State} (h : takeMove m s = .next t) (htick : m ≠ .tick) (hreset : m ≠ .reset) :
    t.tick = s.tick :=
  tickAdvancesTheCounterAlone.2 (s.withAgenda [m]) (t.withAgenda []) htick hreset (step_of_takeMove h)

theorem takeMove_reset_seq {s t : State} (h : takeMove .reset s = .next t) : t.seq = .idle := by
  cases h
  rfl

theorem IsRun.inv (hrun : IsRun σ ρ) (h : (ρ 0).Inv) : ∀ n, (ρ n).Inv
  | 0 => h
  | n + 1 => takeMove_inv (hrun.inv h n) (hrun n)

/-! ## While the main sequencer takes no step -/

/-- At time `k` of a run the main sequencer moves and has a step. -/
def MainTakes (σ : Nat → Move) (ρ : Nat → State) (k : Nat) : Prop := σ k = .main ∧ (ρ k).mainEnabled = true

/-- The operation under way is in `t` where it is in `s`. -/
structure State.SameOperation (s t : State) : Prop where
  cfg : t.cfg = s.cfg
  seq : t.seq = s.seq
  reg : t.reg = s.reg

theorem State.SameOperation.of_common {s t u : State} (ht : s.SameOperation t) (hu : s.SameOperation u) :
    t.SameOperation u :=
  ⟨hu.cfg.trans ht.cfg.symm, hu.seq.trans ht.seq.symm, hu.reg.trans ht.reg.symm⟩

/-- A move that is no reset and no step of the main sequencer leaves the operation where it is. -/
theorem takeMove_sameOperation {m : Move} {s t : State} (h : takeMove m s = .next t) (hreset : m ≠ .reset)
    (huntaken : ¬ (m = .main ∧ s.mainEnabled = true)) : s.SameOperation t := by
  by_cases hmain : m = .main
  · have hen : s.mainEnabled = false := Bool.eq_false_of_not_eq_true fun hen => huntaken ⟨hmain, hen⟩
    rw [hmain, takeMove, mainStep_held hen] at h
    cases h
    exact ⟨rfl, rfl, rfl⟩
  · obtain ⟨u, hu, hframe⟩ := takeMove_event_frame s hmain hreset
    cases hu.symm.trans h
    exact ⟨by rw [hframe], by rw [hframe], by rw [hframe]⟩

theorem IsRun.sameOperation (hrun : IsRun σ ρ) {n m : Nat} (hnm : n ≤ m)
    (huntaken : ∀ k, n ≤ k → k < m → σ k ≠ .reset ∧ ¬ MainTakes σ ρ k) : (ρ n).SameOperation (ρ m) := by
  induction m, hnm using Nat.le_induction with
  | base => exact ⟨rfl, rfl, rfl⟩
  | succ m hnm ih =>
    have hsame := ih fun k hk hlt => huntaken k hk (Nat.lt_succ_of_lt hlt)
    obtain ⟨hreset, htakes⟩ := huntaken m hnm (Nat.lt_succ_self m)
    have hnext := takeMove_sameOperation (hrun m) hreset htakes
    exact ⟨hnext.cfg.trans hsame.cfg, hnext.seq.trans hsame.seq, hnext.reg.trans hsame.reg⟩

/-! ## The deadline comes -/

theorem takeMove_tick_elapsed {s t : State} (h : takeMove .tick s = .next t) (hlt : s.elapsed + 1 < 2 ^ s.cfg.tickW) :
    t.elapsed = s.elapsed + 1 := by
  cases h
  rw [elapsed_tickEvent, Nat.mod_eq_of_lt hlt]

theorem State.SameOperation.elapsed {s t : State} (h : s.SameOperation t) (htick : t.tick = s.tick) :
    t.elapsed = s.elapsed := by
  simp only [State.elapsed, h.cfg, h.reg, htick]

/-- A counter that a recurring event raises, and nothing lowers, reaches every number. -/
theorem exists_le_of_recurring {P : Nat → Prop} {f : Nat → Nat} {n : Nat} (hP : ∀ k, ∃ m, k ≤ m ∧ P m)
    (hstay : ∀ m, n ≤ m → f m ≤ f (m + 1)) (hrise : ∀ m, n ≤ m → P m → f (m + 1) = f m + 1) (d : Nat) :
    ∃ m, n ≤ m ∧ d ≤ f m := by
  induction d with
  | zero => exact ⟨n, le_rfl, Nat.zero_le _⟩
  | succ d ih =>
    obtain ⟨k, hnk, hd⟩ := ih
    obtain ⟨m, hkm, hm⟩ := hP k
    have hnm : n ≤ m := hnk.trans hkm
    have hmono : f k ≤ f m := monotoneOn_nat_Ici_of_le_succ hstay hnk hnm hkm
    exact ⟨m + 1, Nat.le_succ_of_le hnm, by rw [hrise m hnm hm]; exact Nat.succ_le_succ (hd.trans hmono)⟩

/-- An operation that stays where it is sees its deadline: before it TICK cannot wrap past it, since `TMO` is less than
`2^TICK_W`. -/
theorem IsRun.exists_expired (hrun : IsRun σ ρ) (hticks : ∀ k, ∃ m, k ≤ m ∧ σ m = .tick) {n : Nat}
    (hreset : ∀ k, n ≤ k → σ k ≠ .reset) (hsame : ∀ m, n ≤ m → (ρ n).SameOperation (ρ m))
    (htmo : (ρ n).reg.tmo < 2 ^ (ρ n).cfg.tickW) : ∃ m, n ≤ m ∧ (ρ m).reg.tmo ≤ (ρ m).elapsed := by
  by_contra! hlate
  have hrise (m : Nat) (hm : n ≤ m) (htick : σ m = .tick) : (ρ (m + 1)).elapsed = (ρ m).elapsed + 1 := by
    have hlt : (ρ m).elapsed < (ρ n).reg.tmo := (hsame m hm).reg ▸ hlate m hm
    refine takeMove_tick_elapsed (htick ▸ hrun m) ?_
    rw [(hsame m hm).cfg]
    exact (Nat.succ_le_of_lt hlt).trans_lt htmo
  have hstay (m : Nat) (hm : n ≤ m) : (ρ m).elapsed ≤ (ρ (m + 1)).elapsed := by
    by_cases htick : σ m = .tick
    · exact (hrise m hm htick).symm ▸ Nat.le_succ _
    · have hnext : (ρ m).SameOperation (ρ (m + 1)) := (hsame m hm).of_common (hsame (m + 1) (Nat.le_succ_of_le hm))
      exact (hnext.elapsed (takeMove_tick (hrun m) htick (hreset m hm))).ge
  obtain ⟨m, hm, hd⟩ := exists_le_of_recurring hticks hstay hrise (ρ n).reg.tmo
  exact absurd hd (Nat.not_le.2 ((hsame m hm).reg ▸ hlate m hm))

/-! ## Each step leaves less to do -/

theorem State.SameOperation.devicesLeft {s t : State} (h : s.SameOperation t) : t.devicesLeft = s.devicesLeft := by
  simp only [State.devicesLeft, h.seq, h.reg]

/-- The clock counts in the work left in RR_POLL only. -/
theorem State.SameOperation.workLeft {s t : State} (h : s.SameOperation t) (hpoll : s.seq ≠ .rrPoll) :
    t.workLeft = s.workLeft := by
  have hrounds : t.roundsLeft = s.roundsLeft := by
    simp only [State.roundsLeft, h.seq, h.reg]
    split
    case h_3 hq => exact absurd hq hpoll
    all_goals rfl
  rw [State.workLeft, State.workLeft, h.devicesLeft, h.seq, hrounds]

/-- A step RR_POLL has goes on to a later state. -/
theorem BusyStep.leaves_poll {s t : State} (h : BusyStep s t) (hq : s.seq = .rrPoll) (hen : s.mainEnabled = true) :
    t.devicesLeft = s.devicesLeft ∧ t.seq.stagesLeft < s.seq.stagesLeft := by
  cases h with
  | rrPollDone | rrPollExpired => simp [State.devicesLeft, hq, Seq.stagesLeft]
  | rrPollHeld _ hd he => exact absurd hen (by simp [mainEnabled_poll_held hq hd he])
  | _ => simp_all -- a step of another state

/-- A step of the main sequencer leaves less to do than there was since the operation stands where it does, however long it was
polled: past RR_POLL its ticks do not count. -/
theorem BusyStep.workLeft_lt_of_sameOperation {s t u : State} (h : BusyStep t u) (hsame : s.SameOperation t) (ht : t.Inv)
    (hen : t.mainEnabled = true) : u.workLeft < s.workLeft := by
  by_cases hpoll : s.seq = .rrPoll
  · obtain ⟨hdevices, hstages⟩ := h.leaves_poll (hsame.seq.trans hpoll) hen
    exact workLeft_lt_of_stage (hdevices.trans hsame.devicesLeft) (hsame.seq ▸ hstages)
  · exact hsame.workLeft hpoll ▸ h.workLeft_lt ht hen

/-- The steps that come to IDLE are RR_EXIT's and SR_EXIT's, which deliver the result. -/
theorem BusyStep.resValid_of_idle {s t : State} (h : BusyStep s t) (hq : t.seq = .idle) : t.resValid = true := by
  cases h with
  | rrExitOwner | srExit => rfl
  | rrTx | srHdr =>
    rw [State.goto_seq] at hq
    split at hq <;> contradiction
  | srEmitByte => simp_all [hostSendT_seq]
  | _ => simp_all [rrResetStep, srEnterStep] -- a step to a state that is not IDLE, or one that stays

/-! ## Fairness gives the step -/

section FairRun

variable (hfair : Fair σ ρ) (hrun : IsRun σ ρ) (hinv : ∀ k, (ρ k).Inv)

include hfair hrun hinv

/-- Under the fairness of R183 an operation under way that no reset cuts has its main sequencer take a step: outside RR_POLL by
weak fairness, since the step stays enabled, and in RR_POLL by strong fairness, since the deadline comes again and again. -/
theorem Fair.exists_mainTakes {n : Nat} (hreset : ∀ k, n ≤ k → σ k ≠ .reset) (hq : (ρ n).seq ≠ .idle) :
    ∃ m, n ≤ m ∧ MainTakes σ ρ m := by
  by_contra! hnone
  have hsame (k m : Nat) (hk : n ≤ k) (hkm : k ≤ m) : (ρ k).SameOperation (ρ m) :=
    hrun.sameOperation hkm fun j hj _ => ⟨hreset j (hk.trans hj), hnone j (hk.trans hj)⟩
  have hseq (m : Nat) (hm : n ≤ m) : (ρ m).seq = (ρ n).seq := (hsame n m le_rfl hm).seq
  by_cases hpoll : (ρ n).seq = .rrPoll
  · have hrecurs (k : Nat) (hk : n ≤ k) : ∃ m, k ≤ m ∧ (ρ m).seq = .rrPoll ∧ (ρ m).mainEnabled = true := by
      obtain ⟨-, -, htmo⟩ := (seqOk_rrPoll ((hseq k hk).trans hpoll)).1 (hinv k).seq
      obtain ⟨m, hkm, hexp⟩ :=
        hrun.exists_expired hfair.ticks (fun j hj => hreset j (hk.trans hj)) (fun m hkm => hsame k m hk hkm) htmo
      have hpoll' := (hseq m (hk.trans hkm)).trans hpoll
      exact ⟨m, hkm, hpoll', mainEnabled_poll_expired hpoll' hexp⟩
    obtain ⟨m, hm, -, hen, hmain⟩ := hfair.pollStrong n hrecurs
    exact hnone m hm ⟨hmain, hen⟩
  · have hen (m : Nat) (hm : n ≤ m) : (ρ m).mainEnabled = true := by
      rw [← hseq m hm] at hq hpoll
      exact Bool.eq_true_of_not_eq_false fun hdis => hpoll (rrPoll_of_not_mainEnabled hq hdis).1
    obtain ⟨m, hm, hmain⟩ := hfair.mainWeak _ n fun m hm => ⟨hseq m hm, hen m hm⟩
    exact hnone m hm ⟨hmain, hen m hm⟩

/-- The first step the main sequencer takes finds the operation where it was. -/
theorem Fair.exists_first_mainTakes {n : Nat} (hreset : ∀ k, n ≤ k → σ k ≠ .reset) (hq : (ρ n).seq ≠ .idle) :
    ∃ m, n ≤ m ∧ MainTakes σ ρ m ∧ (ρ n).SameOperation (ρ m) := by
  classical
  have hex := hfair.exists_mainTakes hrun hinv hreset hq
  obtain ⟨hm, htakes⟩ := Nat.find_spec hex
  exact ⟨Nat.find hex, hm, htakes,
    hrun.sameOperation hm fun k hk hlt => ⟨hreset k hk, fun h => Nat.find_min hex hlt ⟨hk, h⟩⟩⟩

/-! ## The run to IDLE -/

/-- With no reset to come, an operation under way comes to IDLE with its result, by induction on the work left. -/
theorem Fair.exists_result {n : Nat} (hreset : ∀ k, n ≤ k → σ k ≠ .reset) (hq : (ρ n).seq ≠ .idle) :
    ∃ m, n ≤ m ∧ (ρ m).seq = .idle ∧ (ρ m).resValid = true := by
  induction hw : (ρ n).workLeft using WellFoundedLT.induction generalizing n with
  | ind w ih =>
    obtain ⟨m, hnm, ⟨hmain, hen⟩, hsame⟩ := hfair.exists_first_mainTakes hrun hinv hreset hq
    have hstep : mainStep (ρ m) = .next (ρ (m + 1)) := by
      have hmove := hrun m
      rwa [hmain] at hmove
    have hbusy := busyStep_of_mainStep (hsame.seq.trans_ne hq) hstep
    have hnm' : n ≤ m + 1 := Nat.le_succ_of_le hnm
    by_cases hidle : (ρ (m + 1)).seq = .idle
    · exact ⟨m + 1, hnm', hidle, hbusy.resValid_of_idle hidle⟩
    · have hlt := hbusy.workLeft_lt_of_sameOperation hsame (hinv m) hen
      obtain ⟨j, hj, hend⟩ := ih _ (hw ▸ hlt) (fun k hk => hreset k (hnm'.trans hk)) hidle rfl
      exact ⟨j, hnm'.trans hj, hend⟩

end FairRun

end Run

/-- Settles O53: a reset to come ends the operation, and without one it comes to its result; IDLE is in Relay by the
invariant. -/
theorem everyFairRunEndsEveryOperation : Obligations.EveryFairRunEndsEveryOperation := by
  intro σ ρ h hrun hfair n
  have hinv := hrun.inv h
  have relay {m : Nat} (hq : (ρ m).seq = .idle) : (ρ m).mode = .relay := (seqOk_idle hq).1 (hinv m).seq
  by_cases hreset : ∃ k, n ≤ k ∧ σ k = .reset
  · obtain ⟨k, hk, hr⟩ := hreset
    have hq := takeMove_reset_seq (hr ▸ hrun k)
    exact ⟨k + 1, Nat.le_succ_of_le hk, hq, relay hq, fun _ hnone => absurd hr (hnone k hk (Nat.lt_succ_self k))⟩
  · by_cases hq : (ρ n).seq = .idle
    · exact ⟨n, le_rfl, hq, relay hq, fun hne => absurd hq hne⟩
    · obtain ⟨m, hm, hidle, hvalid⟩ :=
        hfair.exists_result hrun hinv (fun k hk hr => hreset ⟨k, hk, hr⟩) hq
      exact ⟨m, hm, hidle, relay hidle, fun _ _ => hvalid⟩

end Sys2Proof.Machine
end

section
/-! Reset and hazards (70_reset_and_hazards.md R184, R185, R196): what a reset event leaves, and a read after a write of the
same range. -/

namespace Sys2Proof.Machine

/-! ## Reset -/

/-- Settles O42: the fields of `resetEvent`, read off; the bank's emptied list reads as the reset contents. -/
theorem resetRestoresTheResetValues : Obligations.ResetRestoresTheResetValues := fun s hm =>
  ⟨resetEvent (afterAgenda s), step_of_nextMove hm, rfl, rfl, rfl, rfl, rfl, rfl, fun _ => rfl,
    Nat.mod_lt _ (Nat.two_pow_pos _), rfl, rfl, rfl, rfl, rfl, rfl, rfl⟩

/-! ## Read after write -/

/-- `MemRead` of a written range: the bytes an applied REG_WRITE of `d` at `a` leaves (R96) read back as `d`. -/
theorem memRead_of_bankAt {s t : State} {a : Nat} {d : List Byte}
    (h : ∀ x, t.bankAt x = if a ≤ x ∧ x < a + d.length then d.getD (x - a) 0 else s.bankAt x) :
    memRead t a d.length = d := by
  refine List.ext_getElem (memRead_length t a d.length) fun k _ hk => ?_
  have hin : a ≤ a + k ∧ a + k < a + d.length := ⟨Nat.le_add_right a k, Nat.add_lt_add_left hk a⟩
  rw [List.getElem_eq_iff, memRead_getElem? t a d.length k hk, h, if_pos hin, Nat.add_sub_cancel_left,
    List.getD_eq_getElem d 0 hk]

/-- Settles O12: the write leaves the block in IDLE with its bytes in the bank (O11), and the read of the same range is within
the bank and of one byte at least. -/
theorem writeThenReadReturnsTheData : Obligations.WriteThenReadReturnsTheData := by
  intro s a d hq hcan hd hne hin
  obtain ⟨t, hwrite, -, hlog, happlied, -, hidle, -, hcfg, -⟩ := regWriteIsAppliedWholeOrRejectedWhole s a d hq hcan hd
  obtain ⟨hres, hbank, -⟩ := happlied hin
  have hlen : (byte d.length).toNat = d.length := byte_toNat (Nat.lt_succ_of_le hd)
  have hread : ¬ (byte d.length = 0 ∨ t.cfg.bankSize < a.toNat + (byte d.length).toNat) := by
    rintro (hzero | hpast)
    · rw [hzero] at hlen
      exact hne (List.length_eq_zero_iff.1 hlen.symm)
    · obtain ⟨-, hend, -⟩ := hin
      rw [hlen, hcfg] at hpast
      exact absurd hend (Nat.not_le.2 hpast)
  have hexec := exec_regRead_ok hidle hread
  rw [hlen, memRead_of_bankAt hbank] at hexec
  refine ⟨t, _, hwrite, hexec, rfl, rfl, ?_⟩
  calc t.resLog ++ [⟨0, d⟩]
    _ = s.resLog ++ [⟨0, []⟩] ++ [⟨0, d⟩] := by rw [hlog, hres]
    _ = s.resLog ++ [⟨0, []⟩, ⟨0, d⟩] := List.append_assoc _ _ _

end Sys2Proof.Machine
end
